-- ==== Sys2Proof/Word.lean ====
section
/-! DEFINITION. The plain words of the model: bytes and upstream or downstream addresses. -/

namespace Sys2Proof

/-- A byte on a bus, in a frame or in a response. -/
abbrev Byte := BitVec 8

/-- A 7-bit or 10-bit bus address, unshifted; a 7-bit address has bits 9 to 7 at 0 (00_scope.md, Addresses). -/
abbrev Addr := BitVec 10

end Sys2Proof
end

