-- ==== Sys2Proof/Syntax.lean ====
section
/-! DEFINITION. The commands of the block: one constructor for each row of spec/opcode_table.json, with its operands. -/

namespace Sys2Proof

/-- An upstream port (00_scope.md, Terms). -/
inductive Port where
  | u0
  | u1
  deriving DecidableEq, Repr

/-- The direction of an address phase (R27). -/
inductive Direction where
  | write
  | read
  deriving DecidableEq, Repr

/-- A slot of the route table, 0 to 63 (R1). -/
abbrev SlotIx := Fin 64

/-- A downstream segment, S0 to S7 (R7). -/
abbrev SegIx := Fin 8

/-- When the interpreter writes the response of a command its owning block has executed (R177):
in the same event, or in a later one, taken with EXECUTION_COMPLETE. DESIGN CHOICE, log 9. -/
inductive ReplyTime where
  | atOnce
  | later
  deriving DecidableEq, Repr

/-- The commands of the block: each is one event of the part, whole and indivisible. `p` is the upstream port
concerned, `g` the segment. An event that takes a message takes the first one under way (log 1). -/
inductive Instr where
  /-- DEVICE_RESET (R24) with the levels of MADR1 and MADR0. -/
  | deviceReset (straps : BitVec 2)
  /-- UPSTREAM_START (R46). -/
  | upstreamStart (p : Port)
  /-- UPSTREAM_STOP (R47). -/
  | upstreamStop (p : Port)
  /-- UPSTREAM_RESTART (R48). -/
  | upstreamRestart (p : Port)
  /-- ADDRESS_BYTE (R50): a 7-bit address and its direction bit. -/
  | addressByte (p : Port) (a : BitVec 7) (d : Direction)
  /-- PREFIX_WRITE (R58): 11110, the high bits `h`, direction write. -/
  | prefixWrite (p : Port) (h : BitVec 2)
  /-- PREFIX_READ (R60): 11110, the high bits `h`, direction read. -/
  | prefixRead (p : Port) (h : BitVec 2)
  /-- LOW_BYTE (R58). -/
  | lowByte (p : Port) (b : Byte)
  /-- LOOKUP (R26), presented by port `p`. -/
  | lookup (p : Port)
  /-- PREFIX_TEST (R35), presented by port `p`. -/
  | prefixTest (p : Port)
  /-- LOOKUP_OUTCOME (R50). -/
  | lookupOutcome (p : Port)
  /-- PREFIX_OUTCOME (R58). -/
  | prefixOutcome (p : Port)
  /-- UNBIND (R23), sent by port `p`. -/
  | unbind (p : Port)
  /-- ACCEPTANCE_REPORT (R80), sent by port `p`. -/
  | acceptanceReport (p : Port)
  /-- REFUSAL_REPORT (R165), sent by port `p`. -/
  | refusalReport (p : Port)
  /-- LEASE_EXPIRY (R160) of slot `k`. -/
  | leaseExpiry (k : SlotIx)
  /-- IDLE_EXPIRY (R150). -/
  | idleExpiry
  /-- HOLD_EXPIRY (R66). -/
  | holdExpiry (p : Port)
  /-- COMMAND_BYTE (R69). -/
  | commandByte (p : Port) (b : Byte)
  /-- RESPONSE_BYTE (R71). -/
  | responseByte (p : Port)
  /-- WRITE_DATA_BYTE (R81). -/
  | writeDataByte (p : Port) (b : Byte)
  /-- READ_DATA_BYTE (R88). -/
  | readDataByte (p : Port)
  /-- HOST_ACKNOWLEDGE (R89): true for ACK. -/
  | hostAcknowledge (p : Port) (ack : Bool)
  /-- ABSORB_BYTE (R63): a write byte, or a read byte clocked by the host. -/
  | absorbByte (p : Port) (d : Direction)
  /-- ENDING_BYTE (R64). -/
  | endingByte (p : Port)
  /-- GRANT_TAKEN (R54). -/
  | grantTaken (p : Port) (g : SegIx)
  /-- REFUSAL_TAKEN (R55). -/
  | refusalTaken (p : Port) (g : SegIx)
  /-- ADDRESS_ACK (R77). -/
  | addressAck (p : Port) (g : SegIx)
  /-- ADDRESS_NACK (R78). -/
  | addressNack (p : Port) (g : SegIx)
  /-- WRITE_BYTE_RESULT (R85). -/
  | writeByteResult (p : Port) (g : SegIx)
  /-- READ_BYTE_RESULT (R88). -/
  | readByteResult (p : Port) (g : SegIx)
  /-- ACK_BIT_DONE (R75). -/
  | ackBitDone (p : Port) (g : SegIx)
  /-- LOST (R76). -/
  | lost (p : Port) (g : SegIx)
  /-- FAULT (R76). -/
  | fault (p : Port) (g : SegIx)
  /-- CANCELLED (R76). -/
  | cancelled (p : Port) (g : SegIx)
  /-- SEGMENT_REQUEST (R101), sent by port `p`. -/
  | segmentRequest (p : Port)
  /-- WITHDRAWAL (R103), sent by port `p`. -/
  | withdrawal (p : Port)
  /-- RELEASE (R103), sent by port `p`. -/
  | release (p : Port)
  /-- ASK (R107), sent by port `p`. -/
  | ask (p : Port)
  /-- START_CONDITION (R113). -/
  | startCondition (g : SegIx)
  /-- ADDRESS_END (R108): how many of the address bytes, from the first, the client answered ACK. -/
  | addressEnd (g : SegIx) (acks : Nat)
  /-- WRITE_BYTE_END (R109): true for the client's ACK. -/
  | writeByteEnd (g : SegIx) (ack : Bool)
  /-- READ_BYTE_END (R110): the byte clocked in. -/
  | readByteEnd (g : SegIx) (b : Byte)
  /-- ACK_BIT_END (R111). -/
  | ackBitEnd (g : SegIx)
  /-- STOP_END (R112). -/
  | stopEnd (g : SegIx)
  /-- ARBITRATION_LOSS_ADDRESS (R115). -/
  | arbitrationLossAddress (g : SegIx)
  /-- ARBITRATION_LOSS (R116). -/
  | arbitrationLoss (g : SegIx)
  /-- CLOCK_LOW_EXPIRY (R120). -/
  | clockLowExpiry (g : SegIx)
  /-- CLEAR_CHECK (R122): whether DSCL and DSDA are high at the check. -/
  | clearCheck (g : SegIx) (dscl dsda : Bool)
  /-- HAND_OVER (R177). -/
  | handOver (p : Port)
  /-- EXECUTION_COMPLETE (R70) at port `p` of the execution that `issuer` issued. -/
  | executionComplete (p issuer : Port)
  /-- STAGE (R133). -/
  | stage (p : Port) (r : ReplyTime)
  /-- UNSTAGE (R135). -/
  | unstage (p : Port) (r : ReplyTime)
  /-- MARK (R136). -/
  | mark (p : Port) (r : ReplyTime)
  /-- UNMARK (R137). -/
  | unmark (p : Port) (r : ReplyTime)
  /-- COMMIT (R139). -/
  | commit (p : Port) (r : ReplyTime)
  /-- ABANDON (R149). -/
  | abandon (p : Port) (r : ReplyTime)
  /-- RENEW (R162). -/
  | renew (p : Port) (r : ReplyTime)
  /-- REVIVE (R172). -/
  | revive (p : Port) (r : ReplyTime)
  /-- READ_RECORD (R184). -/
  | readRecord (p : Port) (r : ReplyTime)
  /-- PROBE (R185). -/
  | probe (p : Port) (r : ReplyTime)
  /-- READ_STATUS (R186). -/
  | readStatus (p : Port) (r : ReplyTime)
  /-- READ_SEGMENT (R187). -/
  | readSegment (p : Port) (r : ReplyTime)
  /-- READ_NOTICES (R203). -/
  | readNotices (p : Port) (r : ReplyTime)
  /-- SEGMENT_CONFIG (R188). -/
  | segmentConfig (p : Port) (r : ReplyTime)
  /-- ENABLE (R124). -/
  | enable (p : Port) (r : ReplyTime)
  /-- DISABLE (R125). -/
  | disable (p : Port) (r : ReplyTime)
  /-- RECOVER (R124). -/
  | recover (p : Port) (r : ReplyTime)
  /-- PORT_CONFIG (R190). -/
  | portConfig (p : Port) (r : ReplyTime)
  /-- GLOBAL_CONFIG (R191). -/
  | globalConfig (p : Port) (r : ReplyTime)
  /-- CLEAR_NOTICES (R201). -/
  | clearNotices (p : Port) (r : ReplyTime)
  /-- RESTART (R192) with the levels of MADR1 and MADR0 at step 3: all the steps not yet taken, or the next one. -/
  | restart (p : Port) (straps : BitVec 2) (whole : Bool)
  deriving DecidableEq, Repr

end Sys2Proof
end

