-- ==== Sys2Proof/Decode.lean ====
section
/-! DEFINITION. Reading a command from a table word. No row of spec/opcode_table.json gives bits, so no word spells one. -/

namespace Sys2Proof

/-- The command a word spells by the table's bits: the table gives no row any bits (98_reader.md: n_rows_with_fixed 0),
so there is none. DEDUCED, log 21. -/
def decodeTableWord (_nbits _w : Nat) : Option Instr := none

end Sys2Proof
end

