-- ==== Sys2Proof/Config.lean ====
section
/-! DEFINITION. The free values of the model: what others drive on the segments' lines. Nothing in Lean can evaluate them. -/

namespace Sys2Proof

/-- Whether something other than the ZR-2864 pulls DSCL of segment `seg` low at moment `now` (R119).
DESIGN CHOICE, log 5: an input of the part, left free. -/
opaque Config.dsclPulledLow : Nat → Nat → Bool

/-- Whether something other than the ZR-2864 pulls DSDA of segment `seg` low at moment `now` (R119).
DESIGN CHOICE, log 5: an input of the part, left free. -/
opaque Config.dsdaPulledLow : Nat → Nat → Bool

end Sys2Proof
end

