-- ==== Sys2Proof/Machine/State.lean ====
section
/-! DEFINITION. Everything the spec gives the ZR-2864 as plain data, and the state after a device reset. -/

namespace Sys2Proof.Machine

/-! ### Pairs and port choices -/

/-- One thing for each upstream port. -/
structure Both (α : Type) where
  u0 : α
  u1 : α
  deriving DecidableEq, Repr

namespace Both

/-- The thing of port `p`. -/
def get {α : Type} (b : Both α) : Port → α
  | .u0 => b.u0
  | .u1 => b.u1

/-- The pair with the thing of port `p` replaced. -/
def set {α : Type} (b : Both α) (p : Port) (a : α) : Both α :=
  match p with
  | .u0 => { b with u0 := a }
  | .u1 => { b with u1 := a }

end Both

/-! ### Routes (01_the_route_table.md, 1.2) -/

/-- An address width: 7 or 10 bits (R5, R8). -/
inductive Width where
  | w7
  | w10
  deriving DecidableEq, Repr

/-- Where a route's traffic goes (R7). -/
inductive Target where
  | segment (g : SegIx) (width : Width) (base : Addr)
  | localPart
  | deny
  deriving DecidableEq, Repr

/-- The directions a route carries (R9). -/
inductive Access where
  | read
  | write
  | readWrite
  deriving DecidableEq, Repr

/-- A route record (1.2, R4): the content of a slot. -/
structure Record where
  width : Width
  key : Addr
  mask : Addr
  ports : Both Bool
  target : Target
  access : Access
  limit : Option Byte
  counted : Bool
  threshold : Option (BitVec 4)
  lifetime : Option (BitVec 16)
  deriving DecidableEq, Repr

/-- The twelve bytes of a record image, cut into the fields of 10.2; any bits a frame can carry. -/
structure Image where
  matchWidth : BitVec 4
  targetWidth : BitVec 4
  key : BitVec 16
  mask : BitVec 16
  base : BitVec 16
  segment : BitVec 4
  threshold : BitVec 4
  limit : BitVec 8
  kind : BitVec 2
  access : BitVec 2
  counted : BitVec 1
  ports : BitVec 3
  lifetime : BitVec 16
  deriving DecidableEq, Repr

/-! ### Slots of the route table (1.1, 1.4) -/

/-- The five states of a slot (R1). -/
inductive SlotState where
  | free
  | staged
  | live
  | quarantined
  | draining
  deriving DecidableEq, Repr

/-- The lease timer of a slot (R157, R158): none, running until a moment, or paused with the time left.
Moments and times are counts of oscillator periods (log 3). -/
inductive Lease where
  | none
  | running (expiresAt : Nat)
  | paused (left : Nat)
  deriving DecidableEq, Repr

/-- A slot: its state, its record while it holds one, and its five runtime fields (R1, 1.4). -/
structure Slot where
  state : SlotState
  record : Option Record
  mark : Bool
  gen : BitVec 8
  inflight : Nat
  strikes : Nat
  lease : Lease
  deriving DecidableEq, Repr

/-- The change set (R128). Its staged and marked slots are read from the table (6.1). -/
inductive ChangeSet where
  | empty
  | opened (owner : Port) (deadline : Option Nat)
  deriving DecidableEq, Repr

/-! ### Messages between the blocks (log 1) -/

/-- What a lookup is presented with, beside its port (R27). -/
structure Query where
  width : Width
  addr : Addr
  dir : Direction
  deriving DecidableEq, Repr

/-- Where a bound context's traffic goes: the target part of the snapshot (R33). -/
inductive Destination where
  | localPart
  | segment (g : SegIx) (width : Width) (addr : Addr)
  deriving DecidableEq, Repr

/-- The snapshot copied at the bind (R33). -/
structure Snapshot where
  dest : Destination
  access : Access
  limit : Option Byte
  counted : Bool
  deriving DecidableEq, Repr

/-- A binding of a context: slot, generation and snapshot, present together (R43). -/
structure Binding where
  slot : SlotIx
  gen : BitVec 8
  snap : Snapshot
  deriving DecidableEq, Repr

/-- A message from a port controller to the table manager. -/
inductive TableMsg where
  | lookup (q : Query)
  | prefixTest (h : BitVec 2)
  | unbind (slot : SlotIx) (gen : BitVec 8)
  | acceptance (slot : SlotIx) (gen : BitVec 8)
  | refusal (slot : SlotIx) (gen : BitVec 8)
  deriving DecidableEq, Repr

/-- The outcomes of the lookup function (R30). -/
inductive Verdict where
  | noMatch
  | deny
  | access
  | quarantined
  | segmentDown
  | localPart
  | forward
  deriving DecidableEq, Repr

/-- The answer of the table manager to a lookup (with its query) or to a prefix test (R33, R35).
A lookup hands on the winning slot and its generation for every outcome but NO_MATCH (R30), and the binding with its
snapshot exactly for LOCAL and FORWARD. -/
inductive TableReply where
  | lookup (q : Query) (v : Verdict) (winner : Option (SlotIx × BitVec 8)) (bound : Option Binding)
  | prefixTest (accepted : Bool)
  deriving DecidableEq, Repr

/-- A downstream primitive that a port asks (R74, R107). -/
inductive Primitive where
  | address (width : Width) (addr : Addr) (dir : Direction)
  | writeByte (b : Byte)
  | readByte
  | ackBit (ack : Bool)
  deriving DecidableEq, Repr

/-- A message from a port controller to a segment controller (5.3). A request carries its number among the port's
requests (MODEL's own, log 19). -/
inductive SegMsg where
  | request (number : Nat)
  | withdrawal
  | release
  | ask (a : Primitive)
  deriving DecidableEq, Repr

/-- A message from a segment controller to a port controller (5.3, R74). A grant or refusal carries the number of the
request that it answers (log 19). -/
inductive PortMsg where
  | grant (number : Nat)
  | refusal (number : Nat)
  | addressResult (ack : Bool)
  | writeResult (ack : Bool)
  | readResult (b : Byte)
  | ackBitDone
  | lost
  | fault
  | cancelled
  deriving DecidableEq, Repr

/-! ### Upstream port controllers (03_upstream_ports_and_transaction_contexts.md) -/

/-- The twelve phases of a transaction context (3.2). -/
inductive Phase where
  | idle
  | unaddressed
  | address
  | tenLow
  | waitGrant
  | proxy
  | write
  | read
  | ending
  | command
  | response
  | absorb
  deriving DecidableEq, Repr

/-- The segment link of a context (R43). -/
inductive Link where
  | none
  | owned (g : SegIx)
  | queued (g : SegIx)
  deriving DecidableEq, Repr

/-- The ten-bit memory (R57). -/
structure TenBit where
  slot : SlotIx
  gen : BitVec 8
  addr : Addr
  deriving DecidableEq, Repr

/-- What a port last answered its host: an acknowledge slot, or a read byte (all ones is SDA released). -/
inductive Answer where
  | ack
  | nack
  | byte (b : Byte)
  deriving DecidableEq, Repr

/-- A command frame handed over (R70): at most 16 bytes, and the overflow flag. -/
structure Frame where
  bytes : List Byte
  overflow : Bool
  deriving DecidableEq, Repr

/-- A port controller: its transaction context (R43), its hold limit, and the messages it has under way. -/
structure PortCtl where
  phase : Phase
  direction : Option Direction
  bound : Option Binding
  link : Link
  /-- Data byte count, 0 to 256 (R43). -/
  count : Nat
  declared : Option Byte
  frame : List Byte
  overflow : Bool
  tenBit : Option TenBit
  /-- Interpreter wait, own-execution condition (R70). -/
  ownWait : Bool
  /-- Interpreter wait, RESTART condition (R72). -/
  restartWait : Bool
  /-- Hold deadline; present exactly while the port holds SCL low (R43). -/
  hold : Option Nat
  /-- Hold limit in units of 0.1 ms (R65). -/
  holdLimit : Byte
  /-- The fetched read byte (R88, R95). -/
  fetched : Option Byte
  /-- The fetched byte has been shifted out and its acknowledge is due (R88). -/
  shown : Bool
  /-- The address byte held for the interpreter wait (R70). -/
  held : Option Byte
  /-- The high address bits of the last prefix with write (R58, R59). -/
  high : BitVec 2
  /-- The outcome of a lookup or prefix test is awaited (R50). -/
  awaiting : Bool
  /-- How many outcomes under way are no longer awaited (R50). -/
  stale : Nat
  /-- How many requests the port has sent: the number of the latest one (MODEL's own, log 19). -/
  requests : Nat
  /-- What the port last answered its host. -/
  lastAnswer : Option Answer
  toTable : List TableMsg
  fromTable : List TableReply
  toSegments : List (SegIx × SegMsg)
  fromSegments : List (SegIx × PortMsg)
  /-- A frame handed over and not yet taken by the interpreter (R177). -/
  handedOver : Option Frame
  /-- A completion report of the port's own execution, not yet taken (R177). -/
  ownDone : Bool
  /-- A completion report of the other port's RESTART, not yet taken (R194). -/
  restartDone : Bool
  deriving DecidableEq, Repr

/-! ### Segment controllers (05_downstream_segments.md) -/

/-- The seven states of a segment controller (R97). -/
inductive SegState where
  | disabled
  | clearing
  | idle
  | owned
  | releasing
  | closing
  | faulted
  deriving DecidableEq, Repr

/-- The rate of a segment (5.2). -/
inductive Rate where
  | standard
  | fast
  | fastPlus
  deriving DecidableEq, Repr

/-- The mode of a segment (5.2, 5.6). -/
inductive Mode where
  | sole
  | shared
  deriving DecidableEq, Repr

/-- The bus-free periods of a segment: 4, 8, 16 or 32 SCL periods (5.2). -/
inductive BusFree where
  | p4
  | p8
  | p16
  | p32
  deriving DecidableEq, Repr

/-- The configuration of a segment (5.2): the clock-low timeout is in ms. -/
structure SegConfig where
  rate : Rate
  mode : Mode
  busFree : BusFree
  timeout : Byte
  retryLimit : BitVec 3
  deriving DecidableEq, Repr

/-- The downstream position (R106). -/
inductive Position where
  | none
  | boundary
  | clientSending
  | ackOpen
  deriving DecidableEq, Repr

/-- How far the first entry of the ask list has come: there is none, it waits to make its Start or Restart (R113),
or it drives the lines. An ADDRESS of a 10-bit read makes a Restart of its own before its last byte (R105, R108): it waits
to make it (`toRestart`), or has made it (`restarted`); the two are MODEL's own (log 32). -/
inductive Stage where
  | none
  | waiting
  | driving
  | toRestart
  | restarted
  deriving DecidableEq, Repr

/-- One thing a segment controller does on its lines (R105, R121). -/
inductive Drive where
  | start
  | restart
  | stop
  | byte (b : Byte)
  | clockIn
  | ack
  | nack
  | clearPulses
  deriving DecidableEq, Repr

/-- A segment controller (R96). -/
structure Segment where
  state : SegState
  config : SegConfig
  owner : Option Port
  queue : List Port
  /-- The number of the request last taken from each port (MODEL's own, log 19). -/
  tickets : Both Nat
  asks : List Primitive
  stage : Stage
  position : Position
  pendingCancel : Option Port
  /-- Clearing attempt count, 0 to 3 (R121). -/
  attempts : Nat
  /-- Start retry count (R115). -/
  retries : Nat
  /-- The clock-low timer: stopped, or running since a moment (R119). -/
  clockLow : Option Nat
  /-- The moment since which the bus counts as free (R113). -/
  freeSince : Nat
  /-- DSCL, as last sampled, is pulled low from outside (R119, log 5). -/
  dsclLow : Bool
  /-- DSDA, as last sampled, is pulled low from outside (R119, log 5). -/
  dsdaLow : Bool
  /-- What the controller drove on its lines in its latest event (R105; MODEL's own, log 20). -/
  driven : List Drive
  deriving DecidableEq, Repr

/-! ### The command interpreter (08_the_command_interpreter.md) -/

/-- The actions of SEGMENT_ACTION (R189). -/
inductive SegAction where
  | enable
  | disable
  | recover
  deriving DecidableEq, Repr

/-- The fields a SEGMENT_CONFIG selects, with their values (R188). -/
structure ConfigChange where
  rate : Option Rate
  mode : Option Mode
  busFree : Option BusFree
  timeout : Option Byte
  retryLimit : Option (BitVec 3)
  deriving DecidableEq, Repr

/-- A command of a frame that has passed the interpreter's checks (R178, R179). -/
inductive Command where
  | stage (slot : SlotIx) (image : Image)
  | unstage (slot : SlotIx)
  | mark (slot : SlotIx) (gen : BitVec 8)
  | unmark (slot : SlotIx) (gen : BitVec 8)
  | commit
  | abandon
  | renew (slot : SlotIx) (gen : BitVec 8)
  | revive (slot : SlotIx) (gen : BitVec 8)
  | readRecord (slot : SlotIx)
  | probe (p : Port) (q : Query)
  | readStatus
  | readSegment (g : SegIx)
  | readNotices
  | segmentConfig (g : SegIx) (c : ConfigChange)
  | segmentAction (g : SegIx) (a : SegAction)
  | portConfig (p : Port) (limit : Byte)
  | globalConfig (mask idle : Byte)
  | clearNotices (mask : Byte)
  | restart
  deriving DecidableEq, Repr

/-- The thirteen statuses (R183). -/
inductive Status where
  | ok
  | none
  | badFrame
  | unknown
  | badSlot
  | badValue
  | slotBusy
  | badRecord
  | stale
  | changesetBusy
  | duplicateMatch
  | orphanPort
  | segmentActive
  deriving DecidableEq, Repr

/-- The result of a command: a status and payload, or the table manager's part of a READ_STATUS, whose other
items are read when the response is formed (R186). -/
inductive Result where
  | done (status : Status) (payload : List Byte)
  | statusPart (items : List Byte)
  deriving DecidableEq, Repr

/-- How far an execution has come (R177, R192): passed to its owning block, its result awaiting the response
write, or a RESTART some of whose steps (1 to 4) are done, with what step 3 gave for the response. -/
inductive Progress where
  | passed (c : Command)
  | replying (r : Result)
  | restarting (done : Nat) (gen : BitVec 8) (address : Byte)
  deriving DecidableEq, Repr

/-- An execution in progress (R176). -/
structure Execution where
  frame : Frame
  progress : Progress
  deriving DecidableEq, Repr

/-- The interpreter's state for one port (R176). -/
structure InterpPort where
  buffer : List Byte
  execution : Option Execution
  deriving DecidableEq, Repr

/-! ### The notice unit (09_notices_and_the_alert_line.md) -/

/-- The eight kinds of notice (9.1). -/
inductive Kind where
  | miss
  | holdTimeout
  | changesetExpired
  | routeQuarantined
  | routeExpired
  | routeDrained
  | segmentFault
  | segmentCleared
  deriving DecidableEq, Repr

/-- The kind number (9.1), the kind's place in the masks. -/
def Kind.number : Kind → Fin 8
  | .miss => 0
  | .holdTimeout => 1
  | .changesetExpired => 2
  | .routeQuarantined => 3
  | .routeExpired => 4
  | .routeDrained => 5
  | .segmentFault => 6
  | .segmentCleared => 7

/-- One kind of the notice set (R199): its presence flag, and its members as a set of numbers below 64. -/
structure Note where
  present : Bool
  members : BitVec 64
  deriving DecidableEq, Repr

/-- An absent kind (R199). -/
def Note.absent : Note := { present := false, members := 0#64 }

/-! ### The whole part -/

/-- The state of the ZR-2864 and the queue of commands. -/
structure State where
  /-- The clock, in oscillator periods (MODEL's own, log 3). -/
  now : Nat
  /-- The strap value last sampled (R186). -/
  straps : BitVec 2
  table : Vector Slot 64
  changeSet : ChangeSet
  ports : Both PortCtl
  segments : Vector Segment 8
  interp : Both InterpPort
  alertMask : Byte
  /-- Change-set idle limit in units of 100 ms (R176). -/
  idleLimit : Byte
  notices : Vector Note 8
  /-- ALERT is driven low (R205). -/
  alertLow : Bool
  pending : List Instr
  deriving DecidableEq, Repr

/-- No step of this block ends in a fault (log 23). -/
inductive Fault where
  deriving DecidableEq, Repr

/-- Why the model gives no meaning. -/
inductive Refusal where
  /-- Raised by an arm of exec whose command has no meaning in the model yet; safe. No arm is left so. -/
  | notModelled (mnemonic : String)
  deriving DecidableEq, Repr

/-! ### The state after a device reset -/

/-- A FREE slot with generation `gen` (R3). -/
def Slot.freeWith (gen : BitVec 8) : Slot :=
  { state := .free, record := none, mark := false, gen := gen, inflight := 0, strikes := 0, lease := .none }

/-- The record of the management route for a strap value (R24). -/
def managementRecord (straps : BitVec 2) : Record :=
  { width := .w7, key := 0x2C#10 + straps.setWidth 10, mask := 0x7F#10, ports := { u0 := true, u1 := true },
    target := .localPart, access := .readWrite, limit := none, counted := false, threshold := none, lifetime := none }

/-- Slot 0 with the management route installed (R24, R25). -/
def managementSlot (straps : BitVec 2) (gen : BitVec 8) : Slot :=
  { state := .live, record := some (managementRecord straps), mark := false, gen := gen, inflight := 0, strikes := 0,
    lease := .none }

/-- A port controller after a device reset (R44); fields of the model's own as log 20 gives. -/
def PortCtl.reset : PortCtl :=
  { phase := .idle, direction := none, bound := none, link := .none, count := 0, declared := none, frame := [],
    overflow := false, tenBit := none, ownWait := false, restartWait := false, hold := none, holdLimit := 100#8,
    fetched := none, shown := false, held := none, high := 0#2, awaiting := false, stale := 0, requests := 0,
    lastAnswer := none, toTable := [], fromTable := [], toSegments := [], fromSegments := [], handedOver := none, ownDone := false,
    restartDone := false }

/-- The configuration after a device reset (5.2). -/
def SegConfig.reset : SegConfig :=
  { rate := .standard, mode := .sole, busFree := .p8, timeout := 25#8, retryLimit := 3#3 }

/-- A segment controller after a device reset (R98). -/
def Segment.reset : Segment :=
  { state := .disabled, config := SegConfig.reset, owner := none, queue := [],
    tickets := { u0 := 0, u1 := 0 }, asks := [], stage := .none, position := .none, pendingCancel := none, attempts := 0, retries := 0, clockLow := none, freeSince := 0,
    dsclLow := false, dsdaLow := false, driven := [] }

/-- The interpreter's state of a port after a device reset: status NONE, payload length 0 (R176, R211). -/
def InterpPort.reset : InterpPort := { buffer := [0x01#8, 0x00#8], execution := none }

/-- The part after a device reset with the given strap levels (R24, R44, R98, R176, R199, R205). -/
def State.resetWith (straps : BitVec 2) : State :=
  { now := 0, straps := straps,
    table := (Vector.replicate 64 (Slot.freeWith 0#8)).set 0 (managementSlot straps 0#8),
    changeSet := .empty, ports := { u0 := PortCtl.reset, u1 := PortCtl.reset },
    segments := Vector.replicate 8 Segment.reset, interp := { u0 := InterpPort.reset, u1 := InterpPort.reset },
    alertMask := 0#8, idleLimit := 50#8, notices := Vector.replicate 8 Note.absent, alertLow := false, pending := [] }

/-- The part right after a device reset. The straps are pins: DESIGN CHOICE both low, log 6. -/
def State.reset : State := State.resetWith 0#2

end Sys2Proof.Machine
end

