-- ==== Sys2Proof/Machine/Flags.lean ====
section
/-! DEFINITION. The notice unit: raising, clearing and emptying notices, and the level of ALERT
(09_notices_and_the_alert_line.md). -/

namespace Sys2Proof.Machine

/-- A raise: one kind and one member (R200). -/
inductive Notice where
  | miss (p : Port)
  | holdTimeout (p : Port)
  | changesetExpired (p : Port)
  | routeQuarantined (k : SlotIx)
  | routeExpired (k : SlotIx)
  | routeDrained (k : SlotIx)
  | segmentFault (g : SegIx)
  | segmentCleared (g : SegIx)
  deriving DecidableEq, Repr

/-- The number of a port, its code and its place in a port member set (R208). -/
def portNumber : Port → Nat
  | .u0 => 0
  | .u1 => 1

namespace Notice

/-- The kind of a raise (9.1). -/
def kind : Notice → Kind
  | .miss _ => .miss
  | .holdTimeout _ => .holdTimeout
  | .changesetExpired _ => .changesetExpired
  | .routeQuarantined _ => .routeQuarantined
  | .routeExpired _ => .routeExpired
  | .routeDrained _ => .routeDrained
  | .segmentFault _ => .segmentFault
  | .segmentCleared _ => .segmentCleared

/-- The number of the member a raise carries, in the universe of its kind (9.1). -/
def member : Notice → Fin 64
  | .miss p => Fin.ofNat 64 (portNumber p)
  | .holdTimeout p => Fin.ofNat 64 (portNumber p)
  | .changesetExpired p => Fin.ofNat 64 (portNumber p)
  | .routeQuarantined k => k
  | .routeExpired k => k
  | .routeDrained k => k
  | .segmentFault g => Fin.castLE (by decide) g
  | .segmentCleared g => Fin.castLE (by decide) g

end Notice

/-- The member set holding one member. -/
def memberBit (m : Fin 64) : BitVec 64 := BitVec.twoPow 64 m.val

/-- A kind after a raise of member `m`: present, with `m` among its members (R200). -/
def Note.raised (n : Note) (m : Fin 64) : Note :=
  { present := true, members := n.members ||| memberBit m }

/-- Whether kind number `k` is selected by a kind mask or enabled by an alert mask (R201, R204). -/
def maskSelects (mask : Byte) (k : Fin 8) : Bool := mask.getLsbD k.val

/-- Whether ALERT is driven low: some kind is both present and enabled (R205). -/
def alertLevel (notices : Vector Note 8) (mask : Byte) : Bool :=
  (List.finRange 8).any fun k => (notices.get k).present && maskSelects mask k

namespace State

/-- The notice set replaced, and ALERT driven from it (R205). -/
def withNotices (s : State) (notices : Vector Note 8) : State :=
  { s with notices := notices, alertLow := alertLevel notices s.alertMask }

/-- One kind of the notice set. -/
def note (s : State) (k : Kind) : Note := s.notices.get k.number

/-- A raise taken at the notice unit (R200): the kind's flag and member, and ALERT, in one event. -/
def raise (s : State) (n : Notice) : State :=
  s.withNotices (s.notices.set n.kind.number.val ((s.note n.kind).raised n.member) n.kind.number.isLt)

/-- Several raises, in order. -/
def raiseAll (s : State) (ns : List Notice) : State := ns.foldl raise s

/-- A raise when the condition holds. -/
def raiseIf (s : State) (b : Bool) (n : Notice) : State := if b then s.raise n else s

/-- CLEAR_NOTICES at the notice unit: every selected kind loses its flag and its members (R201). -/
def clearKinds (s : State) (mask : Byte) : State :=
  s.withNotices (Vector.ofFn fun k => if maskSelects mask k then Note.absent else s.notices.get k)

/-- The notice set emptied, as at a table restart (R207). -/
def emptyNotices (s : State) : State := s.withNotices (Vector.replicate 8 Note.absent)

/-- A new alert mask, with ALERT driven from it in the same event (R204, R205). -/
def withAlertMask (s : State) (mask : Byte) : State :=
  { s with alertMask := mask, alertLow := alertLevel s.notices mask }

end State

end Sys2Proof.Machine
end

