-- ==== Sys2Proof/Machine/Ops.lean ====
section
/-! DEFINITION. The named operations the meanings share: the clock, reaching a port or a segment, the messages under way,
and what a port controller does to its own context (holds, answers, unbinding, releasing). -/

namespace Sys2Proof.Machine

/-! ### Time: counts of oscillator periods of the 8 MHz oscillator (00_scope.md, Times; log 3) -/

/-- Oscillator periods in 0.1 ms, the unit of the hold limit (R65). -/
def ticksPerTenthMs : Nat := 800

/-- Oscillator periods in 1 ms, the unit of the clock-low timeout (R119). -/
def ticksPerMs : Nat := 8000

/-- Oscillator periods in 100 ms, the unit of the change-set idle limit (R132). -/
def ticksPer100Ms : Nat := 800000

/-- Oscillator periods in 1 s, the unit of a lifetime (R157). -/
def ticksPerSecond : Nat := 8000000

/-- A count of periods in larger units, rounded up (R128, R157). -/
def unitsRoundedUp (ticks unit : Nat) : Nat := (ticks + unit - 1) / unit

/-! ### Ports -/

/-- The port that is not `p`. -/
def otherPort : Port → Port
  | .u0 => .u1
  | .u1 => .u0

namespace State

/-- The clock moved to moment `t` when `t` is still ahead (log 4). -/
def advanceTo (s : State) (t : Nat) : State := { s with now := max s.now t }

/-- The controller of port `p`. -/
def port (s : State) (p : Port) : PortCtl := s.ports.get p

/-- The controller of port `p` replaced. -/
def setPort (s : State) (p : Port) (q : PortCtl) : State := { s with ports := s.ports.set p q }

/-- The controller of port `p` changed by `f`. -/
def onPort (s : State) (p : Port) (f : PortCtl → PortCtl) : State := s.setPort p (f (s.port p))

/-- The controller of segment `g`. -/
def seg (s : State) (g : SegIx) : Segment := s.segments.get g

/-- The controller of segment `g` replaced. -/
def setSeg (s : State) (g : SegIx) (x : Segment) : State :=
  { s with segments := s.segments.set g.val x g.isLt }

/-- Slot `k` of the route table. -/
def slot (s : State) (k : SlotIx) : Slot := s.table.get k

/-- Slot `k` replaced. -/
def setSlot (s : State) (k : SlotIx) (x : Slot) : State := { s with table := s.table.set k.val x k.isLt }

/-- The interpreter's state for port `p`. -/
def interpOf (s : State) (p : Port) : InterpPort := s.interp.get p

/-- The interpreter's state for port `p` replaced. -/
def setInterp (s : State) (p : Port) (x : InterpPort) : State := { s with interp := s.interp.set p x }

/-- A message from segment `g` put under way to each of the ports named, in order (R100, R107). -/
def deliver (s : State) (g : SegIx) (sends : List (Port × PortMsg)) : State :=
  sends.foldl (fun t m => t.onPort m.1 fun q => { q with fromSegments := q.fromSegments ++ [(g, m.2)] }) s

end State

/-! ### What a port controller does -/

namespace PortCtl

/-- A message put under way to the table manager. -/
def sendTable (q : PortCtl) (m : TableMsg) : PortCtl := { q with toTable := q.toTable ++ [m] }

/-- A message put under way to the controller of segment `g`, behind every earlier one of the port (R103). -/
def sendSegment (q : PortCtl) (g : SegIx) (m : SegMsg) : PortCtl := { q with toSegments := q.toSegments ++ [(g, m)] }

/-- The port holds SCL from moment `now`; the deadline is the port's hold limit away (R65). -/
def beginHold (q : PortCtl) (now : Nat) : PortCtl :=
  { q with hold := some (now + q.holdLimit.toNat * ticksPerTenthMs) }

/-- The port releases SCL (R65). -/
def endHold (q : PortCtl) : PortCtl := { q with hold := none }

/-- The port answers its host and releases SCL if it held it. -/
def answer (q : PortCtl) (a : Answer) : PortCtl := { q.endHold with lastAnswer := some a }

/-- The context gives up its binding, if it has one, and its ten-bit memory (R57); the unbind is sent to the table
manager with the slot and generation recorded at the bind (R23). -/
def giveUpBinding (q : PortCtl) : PortCtl :=
  match q.bound with
  | none => { q with tenBit := none }
  | some b => ({ q with bound := none, tenBit := none }).sendTable (.unbind b.slot b.gen)

/-- No fetched byte is kept (R95). -/
def dropFetched (q : PortCtl) : PortCtl := { q with fetched := none, shown := false }

/-- The context releases its owned segment, if it owns one: a release is sent and the link becomes none (R47). -/
def releaseSegment (q : PortCtl) : PortCtl :=
  match q.link with
  | .owned g => ({ q.dropFetched with link := .none }).sendSegment g .release
  | .queued _ => q
  | .none => q

/-- The context gives up its owned segment by a release, its queued segment by a withdrawal (R66). -/
def leaveSegment (q : PortCtl) : PortCtl :=
  match q.link with
  | .owned _ => q.releaseSegment
  | .queued g => ({ q with link := .none }).sendSegment g .withdrawal
  | .none => q

/-- An outcome under way is no longer awaited (R50). -/
def stopAwaiting (q : PortCtl) : PortCtl :=
  if q.awaiting then { q with awaiting := false, stale := q.stale + 1 } else q

/-- The interpreter wait is set while either of its conditions is (R70). -/
def waiting (q : PortCtl) : Bool := q.ownWait || q.restartWait

/-- The data byte count after one more byte; it stays at 256 once there (R43). -/
def countUp (q : PortCtl) : PortCtl := { q with count := min 256 (q.count + 1) }

/-- The segment the context owns, if any. -/
def ownedSegment (q : PortCtl) : Option SegIx :=
  match q.link with
  | .owned g => some g
  | .queued _ => none
  | .none => none

/-- A primitive asked of the owned segment (R74). -/
def askSegment (q : PortCtl) (a : Primitive) : PortCtl :=
  match q.link with
  | .owned g => q.sendSegment g (.ask a)
  | .queued _ => q
  | .none => q

/-- How the port ends a hold that it gives up: NACK at an acknowledge slot, 0xFF at a held read byte (R66, R72, R76). -/
def ownAnswer (q : PortCtl) : Answer :=
  match q.phase with
  | .read => .byte 0xFF#8
  | .idle | .unaddressed | .address | .tenLow | .waitGrant | .proxy | .write | .ending | .command | .response
  | .absorb => .nack

/-- The hold, if there is one, ended with the part's own answer. -/
def endHoldOwnAnswer (q : PortCtl) : PortCtl := if q.hold.isSome then q.answer q.ownAnswer else q

/-- The message from segment `g` that is first under way to this port, and the messages that remain; the messages of
other segments keep their places (R107). -/
def takeFrom (g : SegIx) : List (SegIx × PortMsg) → Option (PortMsg × List (SegIx × PortMsg))
  | [] => none
  | m :: rest =>
    if m.1 = g then some (m.2, rest)
    else (takeFrom g rest).map fun r => (r.1, m :: r.2)

end PortCtl

end Sys2Proof.Machine
end

