-- ==== Sys2Proof/Machine/Operands.lean ====
section
/-! DEFINITION. Frame and record formats (10_frame_and_record_formats.md): record images and their validity,
command frames and their checks, response buffers and payloads. -/

namespace Sys2Proof.Machine

/-! ### Numbers and codes (10.1, R208) -/

/-- A count as one byte. -/
def byteOf (n : Nat) : Byte := BitVec.ofNat 8 n

/-- A two-byte quantity, most significant byte first (R208). -/
def twoBytes (x : BitVec 16) : List Byte := [x.extractLsb' 8 8, x.extractLsb' 0 8]

/-- An eight-byte set, members 63 to 56 first (R208). -/
def eightBytes (x : BitVec 64) : List Byte :=
  [x.extractLsb' 56 8, x.extractLsb' 48 8, x.extractLsb' 40 8, x.extractLsb' 32 8,
   x.extractLsb' 24 8, x.extractLsb' 16 8, x.extractLsb' 8 8, x.extractLsb' 0 8]

/-- The code of a port (R208). -/
def portCode (p : Port) : Byte := byteOf (portNumber p)

/-- The code of a yes/no field. -/
def boolCode (b : Bool) : Byte := if b then 1#8 else 0#8

/-- The positions inside a width (R5). -/
def widthMask : Width → Addr
  | .w7 => 0x7F#10
  | .w10 => 0x3FF#10

/-- The code of a width: the number itself (R208). -/
def widthCode : Width → BitVec 4
  | .w7 => 7#4
  | .w10 => 10#4

/-- The width a four-bit code names, if any (R208). -/
def widthOfCode (c : BitVec 4) : Option Width :=
  if c = 7#4 then some .w7 else if c = 10#4 then some .w10 else none

/-! ### The record image (10.2, R209) -/

namespace Image

/-- The fields of a twelve-byte image (10.2). -/
def ofBytes : List Byte → Option Image
  | [b0, b1, b2, b3, b4, b5, b6, b7, b8, b9, b10, b11] =>
    some { matchWidth := b0.extractLsb' 4 4, targetWidth := b0.extractLsb' 0 4, key := b1 ++ b2, mask := b3 ++ b4,
           base := b5 ++ b6, segment := b7.extractLsb' 4 4, threshold := b7.extractLsb' 0 4, limit := b8,
           kind := b9.extractLsb' 6 2, access := b9.extractLsb' 4 2, counted := b9.extractLsb' 3 1,
           ports := b9.extractLsb' 0 3, lifetime := b10 ++ b11 }
  | _ => none

/-- The twelve bytes of an image (10.2). -/
def toBytes (i : Image) : List Byte :=
  [i.matchWidth ++ i.targetWidth] ++ twoBytes i.key ++ twoBytes i.mask ++ twoBytes i.base
    ++ [i.segment ++ i.threshold, i.limit, i.kind ++ i.access ++ i.counted ++ i.ports] ++ twoBytes i.lifetime

/-- The image of no record: twelve bytes of 0 (R209). -/
def zero : Image :=
  { matchWidth := 0, targetWidth := 0, key := 0, mask := 0, base := 0, segment := 0, threshold := 0, limit := 0,
    kind := 0, access := 0, counted := 0, ports := 0, lifetime := 0 }

/-- Whether a two-byte address field has no bit outside a width (R14 check 1, check 3). -/
def fits (x : BitVec 16) (w : Width) : Bool := x &&& ~~~((widthMask w).setWidth 16) == 0#16

/-- Target kind SEGMENT (10.2). -/
def isSegment (i : Image) : Bool := i.kind == 1#2

/-- The positions the match mask leaves free, inside the match width (R5). -/
def freePositions (i : Image) (w : Width) : BitVec 16 := ~~~i.mask &&& (widthMask w).setWidth 16

/-- Bits 6 to 3, whose all being 1 puts a 7-bit address into 0x78 to 0x7F (R15). -/
def reservedBits : BitVec 16 := 0x78#16

/-- Check 1: the match width is 7 or 10, and key and mask fit it (R14). -/
def check1 (i : Image) : Bool :=
  match widthOfCode i.matchWidth with
  | some w => fits i.key w && fits i.mask w
  | none => false

/-- Check 2: the port set is not empty and names only U0 and U1 (R14). -/
def check2 (i : Image) : Bool := i.ports != 0#3 && !i.ports.getLsbD 2

/-- Check 3: the target kind, the access and the target fields (R14, R209). -/
def check3 (i : Image) : Bool :=
  i.kind != 0#2 && i.access != 0#2 &&
    if i.isSegment then
      (match widthOfCode i.targetWidth with
        | some w => fits i.base w
        | none => false) && !i.segment.getLsbD 3
    else i.targetWidth == 0#4 && i.segment == 0#4 && i.base == 0#16

/-- Check 4: for SEGMENT, every free position lies inside the target width (R15). -/
def check4 (i : Image) : Bool :=
  match i.isSegment, widthOfCode i.matchWidth, widthOfCode i.targetWidth with
  | true, some mw, some tw => fits (i.freePositions mw) tw
  | _, _, _ => true

/-- Check 5: no address of a 7-bit match set lies in 0x78 to 0x7F (R15). -/
def check5 (i : Image) : Bool :=
  !(widthOfCode i.matchWidth == some Width.w7) || (i.mask &&& ~~~i.key &&& reservedBits != 0#16)

/-- Check 6: no 7-bit translated address lies in 0x78 to 0x7F (R15). -/
def check6 (i : Image) : Bool :=
  !(i.isSegment && widthOfCode i.targetWidth == some Width.w7) || (i.mask &&& ~~~i.base &&& reservedBits != 0#16)

/-- Check 7: counted needs write access (R16). -/
def check7 (i : Image) : Bool := i.counted == 0#1 || i.access != 1#2

/-- Check 8: the optional fields against the target kind (R16). -/
def check8 (i : Image) : Bool :=
  i.isSegment ||
    (i.limit == 0#8 && i.counted == 0#1 && i.threshold == 0#4 && (i.kind == 3#2 || i.lifetime == 0#16))

/-- The number of the first failing validity check, in the order of their numbers (R14). -/
def firstFailure (i : Image) : Option Byte :=
  if !i.check1 then some 1#8
  else if !i.check2 then some 2#8
  else if !i.check3 then some 3#8
  else if !i.check4 then some 4#8
  else if !i.check5 then some 5#8
  else if !i.check6 then some 6#8
  else if !i.check7 then some 7#8
  else if !i.check8 then some 8#8
  else none

end Image

/-- An optional field of an image: 0 is absent (R208). -/
def present? {w : Nat} (x : BitVec w) : Option (BitVec w) := if x = 0#w then none else some x

/-- An optional field as an image carries it. -/
def orZero {w : Nat} : Option (BitVec w) → BitVec w
  | none => 0#w
  | some x => x

namespace Record

/-- The record that a valid image gives (R209). -/
def ofImage (i : Image) : Record :=
  { width := if i.matchWidth = 10#4 then .w10 else .w7,
    key := i.key.setWidth 10, mask := i.mask.setWidth 10,
    ports := { u0 := i.ports.getLsbD 0, u1 := i.ports.getLsbD 1 },
    target :=
      if i.kind = 1#2 then
        .segment (i.segment.setWidth 3).toFin (if i.targetWidth = 10#4 then .w10 else .w7) (i.base.setWidth 10)
      else if i.kind = 2#2 then .localPart else .deny,
    access := if i.access = 1#2 then .read else if i.access = 2#2 then .write else .readWrite,
    limit := present? i.limit, counted := i.counted == 1#1, threshold := present? i.threshold,
    lifetime := present? i.lifetime }

/-- The code of a target kind (10.2). -/
def kindCode : Target → BitVec 2
  | .segment _ _ _ => 1#2
  | .localPart => 2#2
  | .deny => 3#2

/-- The code of an access (10.2). -/
def accessCode : Access → BitVec 2
  | .read => 1#2
  | .write => 2#2
  | .readWrite => 3#2

/-- The port set of a record as an image carries it: bit 0 is U0, bit 1 is U1 (10.2). -/
def portBits (b : Both Bool) : BitVec 3 := BitVec.ofBool false ++ BitVec.ofBool b.u1 ++ BitVec.ofBool b.u0

/-- The image of a record, absent fields as 0 (R209). -/
def image (r : Record) : Image :=
  { matchWidth := widthCode r.width,
    targetWidth := match r.target with
      | .segment _ w _ => widthCode w
      | .localPart => 0#4
      | .deny => 0#4,
    key := r.key.setWidth 16, mask := r.mask.setWidth 16,
    base := match r.target with
      | .segment _ _ b => b.setWidth 16
      | .localPart => 0#16
      | .deny => 0#16,
    segment := match r.target with
      | .segment g _ _ => (BitVec.ofFin g : BitVec 3).setWidth 4
      | .localPart => 0#4
      | .deny => 0#4,
    threshold := orZero r.threshold, limit := orZero r.limit, kind := kindCode r.target, access := accessCode r.access,
    counted := BitVec.ofBool r.counted, ports := portBits r.ports, lifetime := orZero r.lifetime }

end Record

/-! ### Command frames (10.3, R178, R179, R210) -/

/-- The nineteen command codes (10.3). -/
inductive Code where
  | stage
  | unstage
  | mark
  | unmark
  | commit
  | abandon
  | renew
  | revive
  | readRecord
  | probe
  | readStatus
  | readSegment
  | readNotices
  | segmentConfig
  | segmentAction
  | portConfig
  | globalConfig
  | clearNotices
  | restart
  deriving DecidableEq, Repr

/-- A command's code byte and frame length, counted with the code (10.3). -/
def codeTable : List (Byte × Nat × Code) :=
  [(0x01#8, 14, .stage), (0x02#8, 2, .unstage), (0x03#8, 3, .mark), (0x04#8, 3, .unmark), (0x05#8, 1, .commit),
   (0x06#8, 1, .abandon), (0x08#8, 3, .renew), (0x09#8, 3, .revive), (0x10#8, 2, .readRecord), (0x11#8, 6, .probe),
   (0x12#8, 1, .readStatus), (0x13#8, 2, .readSegment), (0x14#8, 1, .readNotices), (0x20#8, 8, .segmentConfig),
   (0x21#8, 3, .segmentAction), (0x22#8, 3, .portConfig), (0x23#8, 3, .globalConfig), (0x28#8, 2, .clearNotices),
   (0x30#8, 1, .restart)]

/-- The command a code byte names, with its frame length (R210). -/
def codeOf (b : Byte) : Option (Nat × Code) := (codeTable.find? fun r => r.1 == b).map fun r => r.2

/-- A field of a frame: its value, or the status that refuses it (R179). -/
abbrev Field (α : Type) := Except Status α

/-- A value that a code names, or BAD_VALUE (R208). -/
def orBadValue {α : Type} : Option α → Field α
  | some a => .ok a
  | none => .error .badValue

/-- A slot byte: above 63 is BAD_SLOT (R179). -/
def slotField (b : Byte) : Field SlotIx :=
  if h : b.toNat < 64 then .ok ⟨b.toNat, h⟩ else .error .badSlot

/-- A segment byte: above 7 is BAD_VALUE (R179). -/
def segmentField (b : Byte) : Field SegIx :=
  if h : b.toNat < 8 then .ok ⟨b.toNat, h⟩ else .error .badValue

/-- A port byte (R208). -/
def portField (b : Byte) : Field Port :=
  if b = 0#8 then .ok .u0 else if b = 1#8 then .ok .u1 else .error .badValue

/-- A direction byte (R208). -/
def directionField (b : Byte) : Field Direction :=
  if b = 0#8 then .ok .write else if b = 1#8 then .ok .read else .error .badValue

/-- A width byte (R208). -/
def widthField (b : Byte) : Field Width :=
  if b = 7#8 then .ok .w7 else if b = 10#8 then .ok .w10 else .error .badValue

/-- An address of two bytes, within the width (R179). -/
def addressField (w : Width) (hi lo : Byte) : Field Addr :=
  if Image.fits (hi ++ lo) w then .ok ((hi ++ lo).setWidth 10) else .error .badValue

/-- An action byte (R208). -/
def actionField (b : Byte) : Field SegAction :=
  if b = 1#8 then .ok .enable else if b = 2#8 then .ok .disable else if b = 3#8 then .ok .recover else .error .badValue

/-- A rate byte (R208). -/
def rateOf (b : Byte) : Option Rate :=
  if b = 0#8 then some .standard else if b = 1#8 then some .fast else if b = 2#8 then some .fastPlus else none

/-- A mode byte (R208). -/
def modeOf (b : Byte) : Option Mode := if b = 0#8 then some .sole else if b = 1#8 then some .shared else none

/-- A bus-free byte (R208). -/
def busFreeOf (b : Byte) : Option BusFree :=
  if b = 4#8 then some .p4 else if b = 8#8 then some .p8 else if b = 16#8 then some .p16
  else if b = 32#8 then some .p32 else none

/-- A clock-low timeout byte: 0 is out of range (R188). -/
def timeoutOf (b : Byte) : Option Byte := present? b

/-- A start retry limit byte (R188). -/
def retryLimitOf (b : Byte) : Option (BitVec 3) := if b.toNat < 8 then some (b.setWidth 3) else none

/-- A value byte of SEGMENT_CONFIG: neither checked nor used when its field is not selected (R188). -/
def selected {α : Type} (sel : Byte) (bit : Nat) (v : Option α) : Field (Option α) :=
  if sel.getLsbD bit then (orBadValue v).map some else .ok none

/-- The fields of a SEGMENT_CONFIG frame (R188, 10.3). -/
def configFields (sel rate mode free timeout retry : Byte) : Field ConfigChange := do
  let r ← selected sel 0 (rateOf rate)
  let m ← selected sel 1 (modeOf mode)
  let f ← selected sel 2 (busFreeOf free)
  let t ← selected sel 3 (timeoutOf timeout)
  let n ← selected sel 4 (retryLimitOf retry)
  return { rate := r, mode := m, busFree := f, timeout := t, retryLimit := n }

/-- The fields of a PROBE frame (R179). -/
def probeFields (port width hi lo dir : Byte) : Field Command := do
  let p ← portField port
  let w ← widthField width
  let a ← addressField w hi lo
  let d ← directionField dir
  return .probe p { width := w, addr := a, dir := d }

/-- The command of a frame whose length is that of its code: its fields read at their positions and judged (R179, R210).
A payload of another length gives BAD_FRAME, as R178 has given already. -/
def commandOf (c : Code) (payload : List Byte) : Field Command :=
  match c, payload with
  | .stage, k :: image => do
    let slot ← slotField k
    match Image.ofBytes image with
    | some i => return .stage slot i
    | none => .error .badFrame
  | .unstage, [k] => return .unstage (← slotField k)
  | .mark, [k, gen] => return .mark (← slotField k) gen
  | .unmark, [k, gen] => return .unmark (← slotField k) gen
  | .commit, [] => return .commit
  | .abandon, [] => return .abandon
  | .renew, [k, gen] => return .renew (← slotField k) gen
  | .revive, [k, gen] => return .revive (← slotField k) gen
  | .readRecord, [k] => return .readRecord (← slotField k)
  | .probe, [port, width, hi, lo, dir] => probeFields port width hi lo dir
  | .readStatus, [] => return .readStatus
  | .readSegment, [g] => return .readSegment (← segmentField g)
  | .readNotices, [] => return .readNotices
  | .segmentConfig, [g, sel, rate, mode, free, timeout, retry] => do
    let seg ← segmentField g
    return .segmentConfig seg (← configFields sel rate mode free timeout retry)
  | .segmentAction, [g, a] => do
    let seg ← segmentField g
    return .segmentAction seg (← actionField a)
  | .portConfig, [port, limit] => do
    let p ← portField port
    if limit = 0#8 then .error .badValue else return .portConfig p limit
  | .globalConfig, [mask, idle] => return .globalConfig mask idle
  | .clearNotices, [mask] => return .clearNotices mask
  | .restart, [] => return .restart
  | _, _ => .error .badFrame

/-- The judgement of a handed-over frame: the checks of R178 in order, then those of R179. -/
def judgeFrame (f : Frame) : Field Command :=
  if f.overflow then .error .badFrame
  else
    match f.bytes with
    | [] => .error .unknown
    | code :: payload =>
      match codeOf code with
      | none => .error .unknown
      | some (length, c) => if f.bytes.length = length then commandOf c payload else .error .badFrame

/-! ### Responses (10.4, 10.5) -/

/-- The code of a status (R211). -/
def statusCode : Status → Byte
  | .ok => 0x00#8
  | .none => 0x01#8
  | .badFrame => 0x10#8
  | .unknown => 0x11#8
  | .badSlot => 0x12#8
  | .badValue => 0x13#8
  | .slotBusy => 0x20#8
  | .badRecord => 0x21#8
  | .stale => 0x22#8
  | .changesetBusy => 0x23#8
  | .duplicateMatch => 0x24#8
  | .orphanPort => 0x25#8
  | .segmentActive => 0x30#8

/-- A response buffer's content: status, payload length, payload (R181, R211). -/
def responseBytes (status : Status) (payload : List Byte) : List Byte :=
  statusCode status :: byteOf payload.length :: payload

/-- The code of a slot state (R212). -/
def slotStateCode : SlotState → Byte
  | .free => 0#8
  | .staged => 1#8
  | .live => 2#8
  | .quarantined => 3#8
  | .draining => 4#8

/-- The code of a lookup outcome (R212). -/
def verdictCode : Verdict → Byte
  | .noMatch => 0#8
  | .deny => 1#8
  | .access => 2#8
  | .quarantined => 3#8
  | .segmentDown => 4#8
  | .localPart => 5#8
  | .forward => 6#8

/-- The code of a segment state (R212). -/
def segStateCode : SegState → Byte
  | .disabled => 0#8
  | .clearing => 1#8
  | .idle => 2#8
  | .owned => 3#8
  | .releasing => 4#8
  | .closing => 5#8
  | .faulted => 6#8

/-- The code of a rate (R208). -/
def rateCode : Rate → Byte
  | .standard => 0#8
  | .fast => 1#8
  | .fastPlus => 2#8

/-- The code of a mode (R208). -/
def modeCode : Mode → Byte
  | .sole => 0#8
  | .shared => 1#8

/-- The bus-free periods, the number itself (R208). -/
def busFreePeriods : BusFree → Nat
  | .p4 => 4
  | .p8 => 8
  | .p16 => 16
  | .p32 => 32

/-- The whole seconds left of a lease at moment `now`, rounded up (R157). A running lease never shows 0, since the
event that would bring it to 0 is the expiry (R157; log 16). -/
def Lease.seconds (now : Nat) : Lease → Nat
  | .none => 0
  | .running t => max 1 (unitsRoundedUp (t - now) ticksPerSecond)
  | .paused left => unitsRoundedUp left ticksPerSecond

/-- A remaining lifetime as a response carries it (R212). -/
def lifetimeBytes (seconds : Nat) : List Byte := twoBytes (BitVec.ofNat 16 seconds)

/-- The image READ_RECORD returns for a slot (R184). -/
def Slot.image (x : Slot) : Image :=
  match x.record with
  | some r => r.image
  | none => Image.zero

/-- The payload of READ_RECORD: 19 bytes (R184, R212). -/
def recordPayload (now : Nat) (x : Slot) : List Byte :=
  [slotStateCode x.state] ++ x.image.toBytes
    ++ [x.gen, boolCode x.mark, byteOf x.inflight, byteOf x.strikes] ++ lifetimeBytes (x.lease.seconds now)

/-- The payload of READ_SEGMENT: 11 bytes (R187, R212). -/
def segmentPayload (x : Segment) : List Byte :=
  [segStateCode x.state, (x.owner.map portCode).getD 0#8, byteOf x.queue.length,
   (x.queue[0]?.map portCode).getD 0#8, (x.queue[1]?.map portCode).getD 0#8,
   rateCode x.config.rate, modeCode x.config.mode, byteOf (busFreePeriods x.config.busFree), x.config.timeout,
   x.config.retryLimit.setWidth 8, byteOf x.attempts]

/-- The presence flags of the notice set: bit n for kind n (R212). -/
def presenceByte (notices : Vector Note 8) : Byte :=
  (List.finRange 8).foldl (fun b k => if (notices.get k).present then b ||| BitVec.twoPow 8 k.val else b) 0#8

/-- The members of a port or segment kind as one byte (R212). -/
def memberByte (n : Note) : Byte := n.members.extractLsb' 0 8

/-- The payload of READ_NOTICES: 30 bytes (R203, R212). -/
def noticesPayload (s : State) : List Byte :=
  [presenceByte s.notices, memberByte (s.note .miss), memberByte (s.note .holdTimeout),
   memberByte (s.note .changesetExpired)]
    ++ eightBytes (s.note .routeQuarantined).members ++ eightBytes (s.note .routeExpired).members
    ++ eightBytes (s.note .routeDrained).members
    ++ [memberByte (s.note .segmentFault), memberByte (s.note .segmentCleared)]

end Sys2Proof.Machine
end

