-- ==== Sys2Proof/Machine/SegmentOps.lean ====
section
/-! DEFINITION. What a segment controller does in each of its events (05_downstream_segments.md), as functions of the
segment alone: the new segment, the messages it sends to the ports, and the notices it raises. -/

namespace Sys2Proof.Machine

/-- The effect of one event at a segment controller. -/
structure SegStep where
  seg : Segment
  sends : List (Port × PortMsg) := []
  raises : List Notice := []
  deriving DecidableEq, Repr

namespace Segment

/-! ### Lines and timing -/

/-- One SCL period in oscillator periods: 0.01 ms, 0.0025 ms, 0.001 ms (R105). -/
def periodTicks : Rate → Nat
  | .standard => 80
  | .fast => 20
  | .fastPlus => 8

/-- How long the bus must have been free before a Start (R113). -/
def startWait (c : SegConfig) : Nat :=
  match c.mode with
  | .sole => periodTicks c.rate
  | .shared => busFreePeriods c.busFree * periodTicks c.rate

/-- The direction bit of an address byte (R105). -/
def directionBit : Direction → BitVec 1
  | .write => 0#1
  | .read => 1#1

/-- The first byte of a 10-bit address: 11110, bits 9 and 8, the direction bit (R105). -/
def prefixByte (a : Addr) (d : Direction) : Byte := 0b11110#5 ++ a.extractLsb' 8 2 ++ directionBit d

/-- What ADDRESS sends after its Start or Restart (R105, R108). -/
def addressDrives (w : Width) (a : Addr) (d : Direction) : List Drive :=
  match w, d with
  | .w7, _ => [.byte (a.extractLsb' 0 7 ++ directionBit d)]
  | .w10, .write => [.byte (prefixByte a .write), .byte (a.extractLsb' 0 8)]
  | .w10, .read => [.byte (prefixByte a .write), .byte (a.extractLsb' 0 8), .restart, .byte (prefixByte a .read)]

/-- How many address bytes ADDRESS sends when each is answered ACK (R108). -/
def addressLength (w : Width) (d : Direction) : Nat :=
  match w, d with
  | .w7, _ => 1
  | .w10, .write => 2
  | .w10, .read => 3

/-- The first `n` bytes of a sequence, with the conditions made before them (R108). -/
def firstBytes : Nat → List Drive → List Drive
  | 0, _ => []
  | _, [] => []
  | n + 1, .byte b :: rest => .byte b :: firstBytes n rest
  | n + 1, d :: rest => d :: firstBytes (n + 1) rest

/-- The wind-down of an open read before a Stop or Restart (R106). -/
def windDown : Position → List Drive
  | .none => []
  | .boundary => []
  | .clientSending => [.clockIn, .nack]
  | .ackOpen => [.nack]

/-- Whether the primitive in progress has begun to drive the lines: an ADDRESS that waits to make a Start has not,
one that is to wind down and make a Restart has (R107, R117). -/
def begun (x : Segment) : Bool :=
  match x.stage with
  | .none => false
  | .waiting => x.position != .none
  | .driving | .toRestart | .restarted => true

/-- Whether the clock-low timer can run: the controller is watching and is not itself holding DSCL low (R119).
Between primitives of an open transaction it holds DSCL low (R105). -/
def timerCanRun (x : Segment) : Bool :=
  match x.state with
  | .disabled => false
  | .faulted => false
  | .owned => x.position == .none || x.stage != .none
  | .clearing => true
  | .idle => true
  | .releasing => true
  | .closing => true

/-- Whether the controller waits to make a Start or Restart: the first of its ADDRESS, or the one before the last byte of a
10-bit read (R105, R108, R113). -/
def waitsToStart (x : Segment) : Bool := x.stage == .waiting || x.stage == .toRestart

/-- Whether a condition of the clock-low timer holds by the latest sample of the lines (R119): DSCL is pulled low from
outside, or the controller waits to make a Start or Restart and DSDA is. R119 does not say whether the wind-down before an
ADDRESS's Restart (R106) is part of that wait; the model counts it in, so a client's low data bit there runs the timer:
DESIGN CHOICE, log 12. -/
def lineHeldLow (x : Segment) : Bool := x.timerCanRun && (x.dsclLow || (x.waitsToStart && x.dsdaLow))

/-- The clock-low timer after an event taken at moment `now`: a condition that goes on keeps it running, one that begins
starts it, and without one it is stopped (R119). -/
def timed (x : Segment) (now : Nat) : Segment :=
  { x with clockLow := if x.lineHeldLow then some (x.clockLow.getD now) else none }

/-- Both lines are high by the latest sample: nothing outside pulls one low (R113). -/
def linesHigh (x : Segment) : Bool := !x.dsclLow && !x.dsdaLow

/-! ### The levels on the lines (R105) -/

/-- Which of its two lines the controller pulls low; a line that it does not pull is released. -/
structure Pulls where
  dscl : Bool
  dsda : Bool
  deriving DecidableEq, Repr

/-- One bit: placed on DSDA while DSCL is low (0 pulls it low, 1 releases it), DSCL released, and pulled low again (R105). -/
def bitLevels (b : Bool) : List Pulls :=
  [{ dscl := true, dsda := !b }, { dscl := false, dsda := !b }, { dscl := true, dsda := !b }]

/-- A Start: with both lines high, DSDA is pulled low, then DSCL (R105). -/
def startLevels : List Pulls :=
  [{ dscl := false, dsda := false }, { dscl := false, dsda := true }, { dscl := true, dsda := true }]

/-- The levels of one thing driven, in their order (R105, R121): a byte goes most significant bit first, with DSDA released
in its acknowledge slot; bits taken in leave DSDA released; the pulses of a bus clear leave it released. A Restart and a
Stop begin at DSCL low with DSDA not yet pulled. After the ninth pulse of a bus clear DSCL stands released and R121 does not
say how the Stop brings it low; the model pulls DSCL low first and DSDA then: DESIGN CHOICE, log 31. -/
def driveLevels : Drive → List Pulls
  | .start => startLevels
  | .restart => { dscl := true, dsda := false } :: startLevels
  | .stop =>
    [{ dscl := true, dsda := false }, { dscl := true, dsda := true }, { dscl := false, dsda := true },
      { dscl := false, dsda := false }]
  | .byte b => ((List.range 8).flatMap fun i => bitLevels (b.getLsbD (7 - i))) ++ bitLevels true
  | .clockIn => (List.range 8).flatMap fun _ => bitLevels true
  | .ack => bitLevels false
  | .nack => bitLevels true
  | .clearPulses => (List.range 9).flatMap fun _ => [{ dscl := true, dsda := false }, { dscl := false, dsda := false }]

/-- What the controller drove on its lines in its latest event, level by level. -/
def drivenLevels (x : Segment) : List Pulls := x.driven.flatMap driveLevels

/-- What the controller pulls low between bits and between primitives: DSCL in OWNED, RELEASING and CLOSING while the
position is other than NONE; nothing elsewhere (R105). -/
def restPulls (x : Segment) : Pulls :=
  { dscl := (x.state == .owned || x.state == .releasing || x.state == .closing) && x.position != .none, dsda := false }

/-! ### Owners and states -/

/-- The first ask begins, when there is one: an ADDRESS waits to make its Start or Restart and starts its retry count
from 0 (R108), any other primitive drives the lines at once (R107). -/
def beginFirst (x : Segment) : Segment :=
  match x.asks with
  | [] => { x with stage := .none }
  | .address _ _ _ :: _ => { x with stage := .waiting, retries := 0 }
  | .writeByte _ :: _ => { x with stage := .driving }
  | .readByte :: _ => { x with stage := .driving }
  | .ackBit _ :: _ => { x with stage := .driving }

/-- The segment without an owner, work or transaction: what every entry to IDLE, DISABLED, CLEARING or FAULTED leaves. -/
def atRest (x : Segment) (st : SegState) : Segment :=
  { x with state := st, owner := none, asks := [], stage := .none, position := .none, pendingCancel := none }

/-- The segment granted to port `p` (R102), the grant under the number of the port's request (log 19). -/
def grantTo (x : Segment) (p : Port) : SegStep :=
  { seg := { x with state := .owned, owner := some p, asks := [], stage := .none, retries := 0 },
    sends := [(p, .grant (x.tickets.get p))] }

/-- Entry to IDLE: the head of the waiting queue is granted in the same event (R102). -/
def enterIdle (x : Segment) : SegStep :=
  match x.queue with
  | [] => { seg := x.atRest .idle }
  | p :: rest => ({ x.atRest .idle with queue := rest }).grantTo p

/-- The messages that refuse the whole waiting queue, in queue order (R104), each under its request's number (log 19). -/
def refusals (x : Segment) : List (Port × PortMsg) := x.queue.map fun p => (p, .refusal (x.tickets.get p))

/-- CANCELLED for the pending cancellation, if there is one (R118). -/
def cancellations (x : Segment) : List (Port × PortMsg) :=
  match x.pendingCancel with
  | some p => [(p, .cancelled)]
  | none => []

/-- A message to the owner, if there is one. -/
def toOwner (x : Segment) (m : PortMsg) : List (Port × PortMsg) :=
  match x.owner with
  | some p => [(p, m)]
  | none => []

/-- Entry to DISABLED at the end of CLOSING; a pending cancellation is sent (R116, R118, R120). -/
def enterDisabled (x : Segment) : SegStep := { seg := x.atRest .disabled, sends := x.cancellations }

/-- Entry to CLEARING, whose first attempt begins at once with DSCL pulled low, so the clock-low timer begins anew
(R119, R121). -/
def enterClearing (x : Segment) : Segment := { x.atRest .clearing with attempts := 1, clockLow := none }

/-- The segment's own STOP ends at once when no primitive is left to finish and the position is NONE (R112; log 11). -/
def stopAtOnce (x : Segment) : SegStep :=
  if x.asks.isEmpty && x.position == .none then
    match x.state with
    | .releasing => x.enterIdle
    | .closing => x.enterDisabled
    | .disabled | .clearing | .idle | .owned | .faulted => { seg := x }
  else { seg := x }

/-- Loss of the owner, into RELEASING or CLOSING: a primitive that has begun to drive the lines is finished, every other
ask is discarded (R117, R118). -/
def loseOwner (x : Segment) (st : SegState) : Segment :=
  if x.begun then { x with state := st, owner := none, asks := x.asks.take 1 }
  else { x with state := st, owner := none, asks := [], stage := .none }

/-- Entry to RELEASING (R117). -/
def enterReleasing (x : Segment) : SegStep := (x.loseOwner .releasing).stopAtOnce

/-! ### Messages from the ports (5.3, 5.5) -/

/-- Request number `n` from port `p` (R101); its number is kept for the grant or refusal that will answer it (log 19). -/
def takeRequest (x : Segment) (p : Port) (n : Nat) : SegStep :=
  let y := { x with tickets := x.tickets.set p n }
  match x.state with
  | .idle => y.grantTo p
  | .owned | .releasing | .clearing => { seg := { y with queue := x.queue ++ [p] } }
  | .disabled | .closing | .faulted => { seg := x, sends := [(p, .refusal n)] }

/-- A release from port `p` (R103). -/
def takeRelease (x : Segment) (p : Port) : SegStep :=
  if x.owner = some p then x.enterReleasing else { seg := x }

/-- A withdrawal from port `p` (R103). -/
def takeWithdrawal (x : Segment) (p : Port) : SegStep :=
  if p ∈ x.queue then { seg := { x with queue := x.queue.filter (· ≠ p) } } else x.takeRelease p

/-- An ask from port `p` (R107). -/
def takeAsk (x : Segment) (p : Port) (a : Primitive) : SegStep :=
  if x.owner = some p then
    if x.asks.isEmpty then { seg := ({ x with asks := [a] }).beginFirst } else { seg := { x with asks := x.asks ++ [a] } }
  else { seg := x }

/-! ### Primitives (5.5) -/

/-- A waiting ADDRESS makes its Start at position NONE, or winds down and makes its Restart at any other (R106, R108). -/
def makeStart (x : Segment) : Segment :=
  { x with
    stage := .driving, position := .boundary,
    driven := windDown x.position ++ [if x.position == .none then .start else .restart] }

/-- A 10-bit read that has driven `sent` comes to the Restart before its last byte (R105, R108): with both lines high it is
made at once, else the controller waits for them (R113, R119). The controller itself held DSCL low before, so no clock-low
condition lasts into the wait (R105; log 12). -/
def tenBitRestart (x : Segment) (sent : List Drive) : Segment :=
  if x.linesHigh then { x with stage := .restarted, clockLow := none, driven := sent ++ [.restart] }
  else { x with stage := .toRestart, clockLow := none, driven := sent }

/-- An ADDRESS that drives the lines comes to the Restart inside it, when it is one of a 10-bit read: its two bytes of the
write form have been answered ACK (R108; log 32). -/
def comeToRestart (x : Segment) : Segment :=
  match x.asks with
  | .address .w10 a .read :: _ => x.tenBitRestart (firstBytes 2 (addressDrives .w10 a .read))
  | .address .w10 _ .write :: _ | .address .w7 _ _ :: _ | .writeByte _ :: _ | .readByte :: _ | .ackBit _ :: _ | [] => x

/-- How many address bytes the events before the end of ADDRESS have reported as answered ACK (R108; log 32). -/
def acksSeen : Stage → Nat
  | .none | .waiting | .driving => 0
  | .toRestart | .restarted => 2

/-- How much of ADDRESS's sequence the events before its end have driven: of a 10-bit read two bytes, then its Restart
(R105; log 32). -/
def drivesDone : Stage → Nat
  | .none | .waiting | .driving => 0
  | .toRestart => 2
  | .restarted => 3

/-- Whether an end of ADDRESS after `acks` answers of ACK has still to make a Restart in its event (log 18 and 32). -/
def endMakesRestart (st : Stage) (w : Width) (d : Direction) (acks : Nat) : Bool :=
  match st with
  | .waiting | .toRestart => true
  | .driving => w == .w10 && d == .read && decide (2 ≤ acks)
  | .none | .restarted => false

/-- The end of the primitive in progress at position `pos`: in OWNED its result goes to the owner and the next ask
begins (R107); in RELEASING the result is discarded (R117); in CLOSING the pending cancellation is sent in its place (R118).
The controller itself pulls DSCL low there, so no clock-low condition lasts through it (R105, R119). -/
def endPrimitive (x : Segment) (pos : Position) (result : PortMsg) (drives : List Drive) : SegStep :=
  match x.state with
  | .owned =>
    { seg := ({ x with asks := x.asks.tail, position := pos, clockLow := none, driven := drives }).beginFirst,
      sends := x.toOwner result }
  | .releasing =>
    ({ x with asks := [], stage := .none, position := pos, clockLow := none, driven := drives }).stopAtOnce
  | .closing =>
    let r := ({ x with asks := [], stage := .none, position := pos, clockLow := none, pendingCancel := none,
                       driven := drives }).stopAtOnce
    { r with sends := x.cancellations ++ r.sends }
  | .disabled | .clearing | .idle | .faulted => { seg := x }

/-- ADDRESS ends after `acks` address bytes answered ACK: with ACK when that is all of them, else with NACK at the
next (R108). A Restart that it had still to make has been made, which needs both lines high (R113); a 10-bit read that has
come to its Restart has had two bytes answered ACK. -/
def addressEnd (x : Segment) (acks : Nat) : SegStep :=
  match x.asks with
  | .address w a d :: _ =>
    if x.begun && decide (acksSeen x.stage ≤ acks) && (x.linesHigh || !endMakesRestart x.stage w d acks) then
      let y := if x.stage = .waiting then x.makeStart else { x with driven := [] }
      let drives := y.driven ++ (firstBytes (acks + 1) (addressDrives w a d)).drop (drivesDone x.stage)
      if addressLength w d ≤ acks then
        y.endPrimitive (match d with
          | .read => .clientSending
          | .write => .boundary) (.addressResult true) drives
      else y.endPrimitive .boundary (.addressResult false) drives
    else { seg := x }
  | .writeByte _ :: _ | .readByte :: _ | .ackBit _ :: _ | [] => { seg := x }

/-- WRITE_BYTE ends (R109). -/
def writeByteEnd (x : Segment) (ack : Bool) : SegStep :=
  match x.asks with
  | .writeByte b :: _ => if x.begun then x.endPrimitive .boundary (.writeResult ack) [.byte b] else { seg := x }
  | .address _ _ _ :: _ | .readByte :: _ | .ackBit _ :: _ | [] => { seg := x }

/-- READ_BYTE ends, its acknowledge slot left undriven (R110). -/
def readByteEnd (x : Segment) (b : Byte) : SegStep :=
  match x.asks with
  | .readByte :: _ => if x.begun then x.endPrimitive .ackOpen (.readResult b) [.clockIn] else { seg := x }
  | .address _ _ _ :: _ | .writeByte _ :: _ | .ackBit _ :: _ | [] => { seg := x }

/-- ACK_BIT ends (R111). -/
def ackBitEnd (x : Segment) : SegStep :=
  match x.asks with
  | .ackBit a :: _ =>
    if x.begun then
      x.endPrimitive (if a then .clientSending else .boundary) .ackBitDone [if a then .ack else .nack]
    else { seg := x }
  | .address _ _ _ :: _ | .writeByte _ :: _ | .readByte :: _ | [] => { seg := x }

/-- The segment's own STOP ends, after the wind-down (R112); no clock-low condition lasts through it (R105, R119). -/
def stopEnd (x : Segment) (now : Nat) : SegStep :=
  if x.asks.isEmpty then
    let y := { x with freeSince := now, clockLow := none, driven := windDown x.position ++ [Drive.stop] }
    match x.state with
    | .releasing => y.enterIdle
    | .closing => y.enterDisabled
    | .disabled | .clearing | .idle | .owned | .faulted => { seg := x }
  else { seg := x }

/-! ### Arbitration (5.6) -/

/-- A result that ends the ownership on an arbitration loss: LOST to the owner, then IDLE (R115, R116). -/
def loseBus (x : Segment) : SegStep :=
  let r := x.enterIdle
  { r with sends := x.toOwner .lost ++ r.sends }

/-- An arbitration loss during ADDRESS in SHARED mode (R115). -/
def arbitrationLossAddress (x : Segment) (now : Nat) : SegStep :=
  match x.config.mode, x.state, x.asks with
  | .shared, .owned, .address _ _ _ :: _ =>
    if x.begun then
      let y := { x with freeSince := now, driven := [] }
      if x.retries < x.config.retryLimit.toNat then
        { seg := { y with stage := .waiting, position := .none, retries := x.retries + 1 } }
      else y.loseBus
    else { seg := x }
  | _, _, _ => { seg := x }

/-- An arbitration loss in SHARED mode during a data primitive, or without an owner (R116). -/
def arbitrationLoss (x : Segment) (now : Nat) : SegStep :=
  let y := { x with freeSince := now, driven := [] }
  match x.config.mode, x.state, x.asks with
  | .shared, .owned, .writeByte _ :: _ => if x.begun then y.loseBus else { seg := x }
  | .shared, .owned, .readByte :: _ => if x.begun then y.loseBus else { seg := x }
  | .shared, .owned, .ackBit _ :: _ => if x.begun then y.loseBus else { seg := x }
  | .shared, .releasing, _ => y.enterIdle
  | .shared, .closing, _ => y.enterDisabled
  | _, _, _ => { seg := x }

/-! ### Clock-low timer and bus clear (5.8, 5.9) -/

/-- A clear attempt fails: the next begins, or after the third the segment is FAULTED and its queue refused (R122). -/
def failAttempt (x : Segment) (g : SegIx) : SegStep :=
  if x.attempts < 3 then { seg := { x with attempts := x.attempts + 1, clockLow := none, driven := [] } }
  else { seg := { x.atRest .faulted with queue := [], driven := [] }, sends := x.refusals, raises := [.segmentFault g] }

/-- The clock-low timer expires (R120). -/
def clockLowExpiry (x : Segment) (g : SegIx) : SegStep :=
  if x.timerCanRun then
    match x.state with
    | .owned => { seg := { x.enterClearing with driven := [] }, sends := x.toOwner .fault }
    | .idle | .releasing => { seg := { x.enterClearing with driven := [] } }
    | .clearing => x.failAttempt g
    | .closing => ({ x with driven := [] }).enterDisabled
    | .disabled | .faulted => { seg := x }
  else { seg := x }

/-- The line check after an attempt's nine pulses and Stop (R121, R122): it samples both lines, `dscl` and `dsda` being
whether each is high. The SHARED bus-free count runs from this check (R113), not from the Stop before it: DESIGN CHOICE,
log 30. -/
def clearCheck (x : Segment) (g : SegIx) (now : Nat) (dscl dsda : Bool) : SegStep :=
  match x.state with
  | .clearing =>
    let y := { x with dsclLow := !dscl, dsdaLow := !dsda }
    if dscl && dsda then
      let r := ({ y with freeSince := now, driven := [Drive.clearPulses, Drive.stop] }).enterIdle
      { r with raises := [.segmentCleared g] }
    else
      let r := y.failAttempt g
      { r with seg := { r.seg with driven := [Drive.clearPulses, Drive.stop] } }
  | .disabled | .idle | .owned | .releasing | .closing | .faulted => { seg := x }

/-- The lines sampled at moment `now`, with the clock-low timer started, kept or stopped (R119). In SHARED mode the bus-free
count starts again at every sample with a line low, and at the first one with both high after it, since the low one stood
until then (log 5); in SOLE mode it counts from the last Stop or bus clear (R113). -/
def sampleLines (x : Segment) (now : Nat) (dscl dsda : Bool) : Segment :=
  ({ x with
    dsclLow := dscl, dsdaLow := dsda,
    freeSince := if x.config.mode == Mode.shared && (dscl || dsda || !x.linesHigh) then now else x.freeSince }).timed now

/-! ### Commands (5.2, 5.10, 5.11) -/

/-- The configuration with the selected fields replaced (R99). -/
def withConfig (x : Segment) (c : ConfigChange) : Segment :=
  { x with config :=
    { rate := c.rate.getD x.config.rate, mode := c.mode.getD x.config.mode,
      busFree := c.busFree.getD x.config.busFree, timeout := c.timeout.getD x.config.timeout,
      retryLimit := c.retryLimit.getD x.config.retryLimit } }

/-- ENABLE (R124). -/
def takeEnable (x : Segment) : SegStep :=
  match x.state with
  | .disabled | .faulted => { seg := { x.enterClearing with driven := [] } }
  | .clearing | .idle | .owned | .releasing | .closing => { seg := x }

/-- RECOVER (R124). -/
def takeRecover (x : Segment) : SegStep :=
  match x.state with
  | .faulted => { seg := { x.enterClearing with driven := [] } }
  | .disabled | .clearing | .idle | .owned | .releasing | .closing => { seg := x }

/-- Entry to CLOSING from OWNED: the owner is the pending cancellation while its primitive is finished, else it is
sent CANCELLED at once (R118). -/
def closeOwned (x : Segment) : SegStep :=
  if x.begun then { seg := { x.loseOwner .closing with queue := [], pendingCancel := x.owner }, sends := x.refusals }
  else
    let r := ({ x.loseOwner .closing with queue := [] }).stopAtOnce
    { r with sends := x.toOwner .cancelled ++ x.refusals ++ r.sends }

/-- DISABLE (R118, R125). -/
def takeDisable (x : Segment) : SegStep :=
  match x.state with
  | .owned => x.closeOwned
  | .idle => { seg := { x.atRest .disabled with queue := [] }, sends := x.refusals }
  | .releasing => { seg := { x with state := .closing, queue := [] }, sends := x.refusals }
  | .clearing => { seg := { x.atRest .disabled with queue := [], driven := [] }, sends := x.refusals }
  | .faulted => { seg := x.atRest .disabled }
  | .closing | .disabled => { seg := x }

/-- The segment step of RESTART (R127, R104). -/
def takeRestart (x : Segment) : SegStep :=
  match x.state with
  | .owned =>
    let r := ({ x with queue := [] }).enterReleasing
    { r with sends := x.toOwner .cancelled ++ x.refusals ++ r.sends }
  | .idle | .releasing | .clearing => { seg := { x with queue := [] }, sends := x.refusals }
  | .closing | .disabled | .faulted => { seg := x }

end Segment

/-- An event at segment `g`: the segment replaced, its clock-low timer with it, its messages put under way, its notices
raised. -/
def State.onSegment (s : State) (g : SegIx) (r : SegStep) : State :=
  ((s.setSeg g (r.seg.timed s.now)).deliver g r.sends).raiseAll r.raises

end Sys2Proof.Machine
end

