-- ==== Sys2Proof/Machine/Clock.lean ====
section
/-! DEFINITION. The passing of time while no command waits (log 3). -/

namespace Sys2Proof.Machine

/-- One oscillator period: the clock moves on, and every segment samples its lines, whose levels from outside are free
values (R119, log 5). -/
def State.tick (s : State) : State :=
  { s with
    now := s.now + 1,
    segments := Vector.ofFn fun g =>
      (s.segments.get g).sampleLines (s.now + 1) (Config.dsclPulledLow (s.now + 1) g.val)
        (Config.dsdaPulledLow (s.now + 1) g.val) }

end Sys2Proof.Machine
end

