-- ==== Sys2Proof/Machine/PortOps.lean ====
section
/-! DEFINITION. What a port controller does in each of its events (03, 04), as functions of the port controller alone;
the messages it sends go into its own channels. -/

namespace Sys2Proof.Machine

namespace PortCtl

/-! ### Phases -/

/-- The context moved to a phase; a change of phase discards the fetched byte (R95). -/
def toPhase (q : PortCtl) (ph : Phase) : PortCtl := { q.dropFetched with phase := ph }

/-- The address phase refused: NACK in the acknowledge slot, UNADDRESSED (R51, R62). -/
def refuseAddress (q : PortCtl) : PortCtl := (q.answer .nack).toPhase .unaddressed

/-! ### Bus conditions (3.3) -/

/-- Frame end: the context unbinds, then hands over a frame of at least one byte and sets its own-execution condition;
the frame is emptied (R70). -/
def frameEnd (q : PortCtl) : PortCtl :=
  let r := q.giveUpBinding
  if r.frame.isEmpty then { r with frame := [], overflow := false }
  else { r with frame := [], overflow := false, handedOver := some { bytes := r.frame, overflow := r.overflow }, ownWait := true }

/-- A new address phase: no count, no declared length, no direction (R46, R48). -/
def newAddressPhase (q : PortCtl) : PortCtl :=
  { q.toPhase .address with count := 0, declared := none, direction := none }

/-- A Start taken in IDLE (R46). -/
def takeStart (q : PortCtl) : PortCtl := { q.newAddressPhase with tenBit := none }

/-- A Restart taken in any phase other than IDLE (R48). -/
def takeRestart (q : PortCtl) : PortCtl :=
  match q.phase with
  | .command => q.frameEnd.newAddressPhase
  | .idle | .unaddressed | .address | .tenLow | .waitGrant | .proxy | .write | .read | .ending | .response | .absorb =>
    q.newAddressPhase

/-- A Start or Restart: the one condition, a Start in IDLE and a Restart elsewhere (R45). None can arrive while the
port holds SCL. -/
def takeStartCondition (q : PortCtl) : PortCtl :=
  if q.hold.isSome then q
  else
    match q.phase with
    | .idle => q.takeStart
    | .unaddressed | .address | .tenLow | .waitGrant | .proxy | .write | .read | .ending | .command | .response
    | .absorb => q.takeRestart

/-- What the context gives up at a Stop, by phase (R47). -/
def giveUpAtStop (q : PortCtl) : PortCtl :=
  match q.phase with
  | .write | .read | .ending | .address | .tenLow => q.releaseSegment.giveUpBinding
  | .command => q.frameEnd
  | .response => q.giveUpBinding
  | .idle | .unaddressed | .absorb | .waitGrant | .proxy => q

/-- A Stop (R47): none can arrive while the port holds SCL, and one seen in IDLE has no effect (R44). -/
def takeStop (q : PortCtl) : PortCtl :=
  if q.hold.isSome then q
  else
    match q.phase with
    | .idle => q
    | .unaddressed | .address | .tenLow | .waitGrant | .proxy | .write | .read | .ending | .command | .response
    | .absorb => { q.giveUpAtStop.toPhase .idle with tenBit := none, count := 0, declared := none }

/-! ### Judging address bytes (3.4, 3.5) -/

/-- Whether the first byte of an address phase is a 10-bit prefix (R49). -/
def isPrefixByte (b : Byte) : Bool := b.extractLsb' 3 5 == 0b11110#5

/-- The direction bit of an address byte (R49). -/
def directionOf (b : Byte) : Direction := if b.getLsbD 0 then .read else .write

/-- The high address bits of a prefix (R49). -/
def highBits (b : Byte) : BitVec 2 := b.extractLsb' 1 2

/-- A lookup presented to the table manager, its outcome awaited (R50). -/
def presentLookup (q : PortCtl) (query : Query) : PortCtl :=
  { q.sendTable (.lookup query) with awaiting := true }

/-- A 7-bit address byte: the ten-bit memory is cleared and a carried binding unbound, then the lookup is presented (R49, R50). -/
def judgeSevenBit (q : PortCtl) (b : Byte) : PortCtl :=
  ({ q.giveUpBinding with direction := some (directionOf b) }).presentLookup
    { width := .w7, addr := (b.extractLsb' 1 7).setWidth 10, dir := directionOf b }

/-- A prefix with write: the ten-bit memory is cleared and the prefix test presented; a carried binding and segment
stay carried (R49, R58). -/
def judgePrefixWrite (q : PortCtl) (b : Byte) : PortCtl :=
  { q.sendTable (.prefixTest (highBits b)) with tenBit := none, high := highBits b, awaiting := true }

/-- Whether a prefix with read and high bits `h` continues the ten-bit memory (R60). -/
def continuesMemory (q : PortCtl) (h : BitVec 2) : Bool :=
  match q.tenBit with
  | some m => m.addr.extractLsb' 8 2 == h
  | none => false

/-- The context gives up a carried segment and a carried binding, and the address byte is refused (R49, R51, R60, R61). -/
def refuseCarried (q : PortCtl) : PortCtl := q.releaseSegment.giveUpBinding.refuseAddress

/-- Whether a snapshot's access allows reads (R60). -/
def readAllowed (s : Snapshot) : Bool :=
  match s.access with
  | .read | .readWrite => true
  | .write => false

/-- The segment is requested, under the next request number (log 19), and the context waits for the grant, still holding
SCL (R53). -/
def requestSegment (q : PortCtl) (g : SegIx) : PortCtl :=
  ({ q with link := .queued g, requests := q.requests + 1 }.toPhase .waitGrant).sendSegment g (.request (q.requests + 1))

/-- The context in PROXY asks ADDRESS of its owned segment (R54, R56, R60). -/
def askAddress (q : PortCtl) (w : Width) (a : Addr) (d : Direction) : PortCtl :=
  (q.toPhase .proxy).askSegment (.address w a d)

/-- A prefix with read, and whether it raises MISS (R60, R61). -/
def judgePrefixRead (q : PortCtl) (b : Byte) : PortCtl × Bool :=
  let r := { q with direction := some .read }
  match q.bound with
  | some bd =>
    match bd.snap.dest with
    | .segment g w a =>
      if q.continuesMemory (highBits b) then
        if readAllowed bd.snap then
          (match q.ownedSegment with
            | some _ => r.askAddress w a .read
            | none => r.requestSegment g, false)
        else (r.refuseCarried, false)
      else (r.refuseCarried, true)
    | .localPart => (r.refuseCarried, true)
  | none => (r.refuseCarried, true)

/-- The low byte of a 10-bit write address: a carried binding is unbound, then the lookup is presented (R49, R58, R59). -/
def judgeLowByte (q : PortCtl) (b : Byte) : PortCtl :=
  ({ q.giveUpBinding with direction := some .write }).presentLookup
    { width := .w10, addr := q.high ++ b, dir := .write }

/-- An address byte judged in ADDRESS or TEN_LOW, and whether its judgement raises MISS (R49). -/
def judgeAddressByte (q : PortCtl) (b : Byte) : PortCtl × Bool :=
  match q.phase with
  | .address =>
    if isPrefixByte b then
      match directionOf b with
      | .write => (q.judgePrefixWrite b, false)
      | .read => q.judgePrefixRead b
    else (q.judgeSevenBit b, false)
  | .tenLow => (q.judgeLowByte b, false)
  | .idle | .unaddressed | .waitGrant | .proxy | .write | .read | .ending | .command | .response | .absorb => (q, false)

/-- An address byte received at moment `now`: the port holds SCL; while the interpreter wait is set the byte is kept for
later, else it is judged (R50, R65, R70). -/
def takeAddressByte (q : PortCtl) (now : Nat) (b : Byte) : PortCtl × Bool :=
  let r := q.beginHold now
  if q.waiting then ({ r with held := some b }, false) else r.judgeAddressByte b

/-- A byte arriving as the first byte of an address phase: in ADDRESS, with the clock not held. -/
def takeFirstByte (q : PortCtl) (now : Nat) (b : Byte) : PortCtl × Bool :=
  if q.phase = .address ∧ q.hold = none then q.takeAddressByte now b else (q, false)

/-- A byte arriving as the low byte: in TEN_LOW, with the clock not held (R58, R59). -/
def takeLowByte (q : PortCtl) (now : Nat) (b : Byte) : PortCtl × Bool :=
  if q.phase = .tenLow ∧ q.hold = none then q.takeAddressByte now b else (q, false)

/-- A held address byte judged once the interpreter wait is clear (R70, R73). -/
def judgeHeld (q : PortCtl) : PortCtl × Bool :=
  match q.held with
  | some b => if q.waiting then (q, false) else ({ q with held := none }).judgeAddressByte b
  | none => (q, false)

/-! ### Outcomes from the table manager (3.4, 3.5) -/

/-- A LOCAL outcome: a carried segment is released, the address is answered ACK (R52). -/
def enterLocal (q : PortCtl) (d : Direction) : PortCtl :=
  let r := q.releaseSegment.answer .ack
  match d with
  | .write => { r.toPhase .command with frame := [], overflow := false }
  | .read => { r.toPhase .response with count := 0 }

/-- A FORWARD outcome: an owned segment named by the route is kept, any other is released before the request (R53, R56). -/
def enterForward (q : PortCtl) (g : SegIx) (w : Width) (a : Addr) (d : Direction) : PortCtl :=
  if q.link = .owned g then q.askAddress w a d else q.releaseSegment.requestSegment g

/-- The ten-bit memory set at a 10-bit FORWARD (R57). -/
def rememberTenBit (q : PortCtl) (query : Query) (b : Binding) : PortCtl :=
  match query.width with
  | .w10 => { q with tenBit := some { slot := b.slot, gen := b.gen, addr := query.addr } }
  | .w7 => q

/-- An awaited lookup outcome (R50 to R53, R56, R57). A carried binding has been given up at the judgement (R49), so
there is none to give up here; the direction is the looked-up one, as recorded at the judgement. -/
def actOnLookup (q : PortCtl) (query : Query) (bound : Option Binding) : PortCtl :=
  let r := ({ q with awaiting := false, direction := some query.dir }).giveUpBinding
  match bound with
  | none => r.refuseCarried
  | some b =>
    match b.snap.dest with
    | .localPart => ({ r with bound := some b }).enterLocal query.dir
    | .segment g w a => (({ r with bound := some b }).rememberTenBit query b).enterForward g w a query.dir

/-- An outcome that is no longer awaited: nothing is answered, and a binding it made is given up (R50). Its unbind goes
ahead of a lookup that the port has presented since and that is not yet taken, so that no context is ever counted on two
slots, or twice on one (R19, R22). DESIGN CHOICE, log 29. -/
def discardOutcome (q : PortCtl) (bound : Option Binding) : PortCtl :=
  let r := { q with stale := q.stale - 1 }
  match bound with
  | some b => { r with toTable := .unbind b.slot b.gen :: r.toTable }
  | none => r

/-- A lookup outcome taken (R50). -/
def takeLookupOutcome (q : PortCtl) (query : Query) (bound : Option Binding) : PortCtl :=
  if q.stale = 0 ∧ q.awaiting then q.actOnLookup query bound else q.discardOutcome bound

/-- A prefix test's outcome taken (R50, R58). -/
def takePrefixOutcome (q : PortCtl) (accepted : Bool) : PortCtl :=
  if q.stale = 0 ∧ q.awaiting then
    let r := { q with awaiting := false }
    if accepted then (r.answer .ack).toPhase .tenLow else r.refuseCarried
  else q.discardOutcome none

/-! ### Grants, refusals and results from the segments (3.4, 4.2 to 4.5) -/

/-- The grant of request number `n` from segment `g` (R54); one of an earlier, withdrawn request is discarded (R67). -/
def takeGrant (q : PortCtl) (g : SegIx) (n : Nat) : PortCtl :=
  match q.phase, q.link, q.bound, q.direction with
  | .waitGrant, .queued k, some b, some d =>
    if k = g ∧ n = q.requests then
      match b.snap.dest with
      | .segment _ w a => ({ q with link := .owned g }).askAddress w a d
      | .localPart => q
    else q
  | _, _, _, _ => q

/-- The refusal of request number `n` from segment `g` (R55); one of an earlier, withdrawn or cancelled request is discarded
(R67, R104). -/
def takeRefusal (q : PortCtl) (g : SegIx) (n : Nat) : PortCtl :=
  if q.phase = .waitGrant ∧ q.link = .queued g ∧ n = q.requests then ({ q with link := .none }).giveUpBinding.refuseAddress else q

/-- The report of a downstream address result for the bound slot (R77, R78, R80). -/
def report (q : PortCtl) (ack : Bool) : PortCtl :=
  match q.bound with
  | some b => q.sendTable (if ack then .acceptance b.slot b.gen else .refusal b.slot b.gen)
  | none => q

/-- An ADDRESS result of ACK from segment `g` (R77, R87). -/
def takeAddressAck (q : PortCtl) (g : SegIx) : PortCtl :=
  if q.phase = .proxy ∧ q.link = .owned g then
    let r := { (q.report true).answer .ack with count := 0 }
    match q.direction with
    | some .read => ((r.toPhase .read).askSegment .readByte).countUp
    | some .write | none => r.toPhase .write
  else q

/-- An ADDRESS result of NACK from segment `g` (R78). -/
def takeAddressNack (q : PortCtl) (g : SegIx) : PortCtl :=
  if q.phase = .proxy ∧ q.link = .owned g then (q.report false).refuseCarried else q

/-- The phase given up toward ABSORB: released, unbound (R63). -/
def absorb (q : PortCtl) : PortCtl := q.releaseSegment.giveUpBinding.toPhase .absorb

/-- A WRITE_BYTE result from segment `g` (R85). -/
def takeWriteResult (q : PortCtl) (g : SegIx) (ack : Bool) : PortCtl :=
  if q.phase = .write ∧ q.link = .owned g then
    if ack then q.answer .ack else (q.answer .nack).absorb
  else q

/-- A fetched byte shifted out to the host (R88). -/
def shiftOut (q : PortCtl) (b : Byte) : PortCtl := { q.answer (.byte b) with fetched := some b, shown := true }

/-- A READ_BYTE result from segment `g`: kept as the next byte in READ, shifted out at once when the port is held for it,
discarded in any other phase (R75, R88). -/
def takeReadResult (q : PortCtl) (g : SegIx) (b : Byte) : PortCtl :=
  if q.phase = .read ∧ q.link = .owned g then
    if q.hold.isSome then q.shiftOut b else { q with fetched := some b, shown := false }
  else q

/-- A LOST, FAULT or CANCELLED result from segment `g` (R76, R79, R86, R91, R93). -/
def takeEnding (q : PortCtl) (g : SegIx) : PortCtl :=
  if q.link = .owned g then
    let r := { q with link := .none }
    match q.phase with
    | .proxy => r.giveUpBinding.refuseAddress
    | .write | .read | .ending => r.endHoldOwnAnswer.giveUpBinding.toPhase .absorb
    | .address | .tenLow | .idle | .unaddressed | .waitGrant | .command | .response | .absorb => r
  else q

/-! ### Data bytes (3.6, 3.8, 4.3, 4.4) -/

/-- A write byte in COMMAND (R69). -/
def takeCommandByte (q : PortCtl) (b : Byte) : PortCtl :=
  if q.phase = .command then
    if q.frame.length < 16 then ({ q with frame := q.frame ++ [b] }).answer .ack
    else ({ q with overflow := true }).answer .nack
  else q

/-- A read byte in RESPONSE: the buffer's byte at the data byte count, 0xFF past its end (R71). -/
def takeResponseByte (q : PortCtl) (buffer : List Byte) : PortCtl :=
  if q.phase = .response then (q.answer (.byte (buffer.getD q.count 0xFF#8))).countUp else q

/-- Whether a byte limit or declared length allows a data byte count of `n` (R83). -/
def within (n : Nat) : Option Byte → Bool
  | some limit => n ≤ limit.toNat
  | none => true

/-- A declared length: recorded when it lies in 1 up to the byte limit, else refused (R82, R84). -/
def takeDeclaredLength (q : PortCtl) (limit : Option Byte) (b : Byte) : PortCtl :=
  if b ≠ 0#8 ∧ within b.toNat limit then ({ q with declared := some b }).answer .ack else (q.answer .nack).absorb

/-- A write byte in WRITE: a declared length, a refused byte, or a byte forwarded under a new hold (R81). -/
def takeWriteByte (q : PortCtl) (now : Nat) (b : Byte) : PortCtl :=
  match q.phase, q.hold, q.bound with
  | .write, none, some bd =>
    if bd.snap.counted ∧ q.declared = none then q.takeDeclaredLength bd.snap.limit b
    else if within (q.count + 1) bd.snap.limit ∧ within (q.count + 1) q.declared then
      ((q.beginHold now).askSegment (.writeByte b)).countUp
    else (q.answer .nack).absorb
  | _, _, _ => q

/-- The host begins to clock a read byte in READ (R88). -/
def takeReadClock (q : PortCtl) (now : Nat) : PortCtl :=
  if q.phase = .read ∧ q.hold = none then
    match q.fetched with
    | some b => if q.shown then q else q.shiftOut b
    | none => q.beginHold now
  else q

/-- Whether a host ACK may bring another byte: the limit is absent or the count is below it (R89). -/
def belowLimit (q : PortCtl) (limit : Option Byte) : Bool := within (q.count + 1) limit

/-- The host's answer to a delivered read byte (R89, R90). -/
def takeHostAck (q : PortCtl) (ack : Bool) : PortCtl :=
  match q.phase, q.shown, q.bound with
  | .read, true, some bd =>
    let r := q.dropFetched
    if ack then
      if q.belowLimit bd.snap.limit then ((r.askSegment (.ackBit true)).askSegment .readByte).countUp
      else (r.askSegment (.ackBit false)).absorb
    else (r.askSegment (.ackBit false)).toPhase .ending
  | _, _, _ => q

/-- A byte in ABSORB: NACK for a write, 0xFF for a read (R63). -/
def takeAbsorbByte (q : PortCtl) (d : Direction) : PortCtl :=
  if q.phase = .absorb then
    match d with
    | .write => q.answer .nack
    | .read => q.answer (.byte 0xFF#8)
  else q

/-- A read byte clocked in ENDING: 0xFF, with no primitive asked (R64). -/
def takeEndingByte (q : PortCtl) : PortCtl := if q.phase = .ending then q.answer (.byte 0xFF#8) else q

/-! ### Hold expiry and cancellation (3.7, 3.9) -/

/-- The hold expires: the host is answered, the phase's segment and binding are given up, ABSORB (R66). -/
def takeHoldExpiry (q : PortCtl) : PortCtl :=
  { (q.answer q.ownAnswer).leaveSegment.giveUpBinding.stopAwaiting.toPhase .absorb with held := none }

/-- The context cancelled by a RESTART from the other port: as a hold expiry, but an owned segment is sent no release and
a command frame is emptied without being handed over (R72). -/
def cancelContext (q : PortCtl) : PortCtl :=
  let r := q.endHoldOwnAnswer
  let u := match r.link with
    | .owned _ => { r with link := .none }
    | .queued g => ({ r with link := .none }).sendSegment g .withdrawal
    | .none => r
  { u.giveUpBinding.stopAwaiting.toPhase .absorb with held := none, frame := [], overflow := false }

/-- Step 1 of RESTART at the other port: cancelled when its phase is neither IDLE nor UNADDRESSED (R72). -/
def takeCancellation (q : PortCtl) : PortCtl :=
  match q.phase with
  | .idle | .unaddressed => q
  | .address | .tenLow | .waitGrant | .proxy | .write | .read | .ending | .command | .response | .absorb =>
    q.cancelContext

end PortCtl

end Sys2Proof.Machine
end

