-- ==== Sys2Proof/Machine/Upstream.lean ====
section
/-! DEFINITION. The meanings of the events on an upstream bus: bus conditions, address bytes, data bytes and the hold
expiry (03, 04). An event that the phase does not admit has no effect (log 2). -/

namespace Sys2Proof.Machine

/-- What a step answers. -/
abbrev StepResult := Host.Outcome State Fault Refusal

/-- A port controller's event that may raise MISS for its port (R34, R61). -/
def State.onPortMiss (s : State) (p : Port) (r : PortCtl × Bool) : State := (s.setPort p r.1).raiseIf r.2 (.miss p)

/-- UPSTREAM_START (R45, R46). -/
def execUpstreamStart (p : Port) (s : State) : StepResult := .next (s.onPort p PortCtl.takeStartCondition)

/-- UPSTREAM_STOP (R47). -/
def execUpstreamStop (p : Port) (s : State) : StepResult := .next (s.onPort p PortCtl.takeStop)

/-- UPSTREAM_RESTART (R45, R48). -/
def execUpstreamRestart (p : Port) (s : State) : StepResult := .next (s.onPort p PortCtl.takeStartCondition)

/-- ADDRESS_BYTE (R49, R50): the seven address bits, then the direction bit. -/
def execAddressByte (p : Port) (a : BitVec 7) (d : Direction) (s : State) : StepResult :=
  .next (s.onPortMiss p ((s.port p).takeFirstByte s.now (a ++ Segment.directionBit d)))

/-- PREFIX_WRITE (R49, R58). -/
def execPrefixWrite (p : Port) (h : BitVec 2) (s : State) : StepResult :=
  .next (s.onPortMiss p ((s.port p).takeFirstByte s.now (0b11110#5 ++ h ++ Segment.directionBit .write)))

/-- PREFIX_READ (R49, R60, R61). -/
def execPrefixRead (p : Port) (h : BitVec 2) (s : State) : StepResult :=
  .next (s.onPortMiss p ((s.port p).takeFirstByte s.now (0b11110#5 ++ h ++ Segment.directionBit .read)))

/-- LOW_BYTE (R58, R59). -/
def execLowByte (p : Port) (b : Byte) (s : State) : StepResult :=
  .next (s.onPortMiss p ((s.port p).takeLowByte s.now b))

/-- COMMAND_BYTE (R69). -/
def execCommandByte (p : Port) (b : Byte) (s : State) : StepResult := .next (s.onPort p fun q => q.takeCommandByte b)

/-- RESPONSE_BYTE (R71): from the response buffer of the port on which the read arrives (R175). -/
def execResponseByte (p : Port) (s : State) : StepResult :=
  .next (s.onPort p fun q => q.takeResponseByte (s.interpOf p).buffer)

/-- WRITE_DATA_BYTE (R81 to R84). -/
def execWriteDataByte (p : Port) (b : Byte) (s : State) : StepResult :=
  .next (s.onPort p fun q => q.takeWriteByte s.now b)

/-- READ_DATA_BYTE (R88). -/
def execReadDataByte (p : Port) (s : State) : StepResult := .next (s.onPort p fun q => q.takeReadClock s.now)

/-- HOST_ACKNOWLEDGE (R89, R90). -/
def execHostAcknowledge (p : Port) (ack : Bool) (s : State) : StepResult := .next (s.onPort p fun q => q.takeHostAck ack)

/-- ABSORB_BYTE (R63). -/
def execAbsorbByte (p : Port) (d : Direction) (s : State) : StepResult := .next (s.onPort p fun q => q.takeAbsorbByte d)

/-- ENDING_BYTE (R64). -/
def execEndingByte (p : Port) (s : State) : StepResult := .next (s.onPort p PortCtl.takeEndingByte)

/-- HOLD_EXPIRY (R66): the clock is at the deadline or past it (log 4); HOLD_TIMEOUT is raised with the port. -/
def execHoldExpiry (p : Port) (s : State) : StepResult :=
  match (s.port p).hold with
  | some t => .next (((s.advanceTo t).onPort p PortCtl.takeHoldExpiry).raise (.holdTimeout p))
  | none => .next s

end Sys2Proof.Machine
end

