-- ==== Sys2Proof/Machine/Downstream.lean ====
section
/-! DEFINITION. The meanings of the events at a segment controller: messages of a port, the ends of primitives, arbitration
losses, the clock-low timer and the bus clear (05). -/

namespace Sys2Proof.Machine

/-- The first message of port `p` to the segments taken: the others stay under way (R103). -/
def State.dropSegMsg (s : State) (p : Port) : State := s.onPort p fun q => { q with toSegments := q.toSegments.tail }

/-- SEGMENT_REQUEST (R101). -/
def execSegmentRequest (p : Port) (s : State) : StepResult :=
  match (s.port p).toSegments with
  | (g, .request n) :: _ => .next ((s.dropSegMsg p).onSegment g ((s.seg g).takeRequest p n))
  | _ => .next s

/-- WITHDRAWAL (R103). -/
def execWithdrawal (p : Port) (s : State) : StepResult :=
  match (s.port p).toSegments with
  | (g, .withdrawal) :: _ => .next ((s.dropSegMsg p).onSegment g ((s.seg g).takeWithdrawal p))
  | _ => .next s

/-- RELEASE (R103, R117). -/
def execRelease (p : Port) (s : State) : StepResult :=
  match (s.port p).toSegments with
  | (g, .release) :: _ => .next ((s.dropSegMsg p).onSegment g ((s.seg g).takeRelease p))
  | _ => .next s

/-- ASK (R107). -/
def execAsk (p : Port) (s : State) : StepResult :=
  match (s.port p).toSegments with
  | (g, .ask a) :: _ => .next ((s.dropSegMsg p).onSegment g ((s.seg g).takeAsk p a))
  | _ => .next s

/-- START_CONDITION (R113): with both lines high, a waiting ADDRESS makes its Start, once the bus has been free for the
mode's wait (the clock is at that moment or past it, log 4), or its Restart, without a wait. While the latest sample has a
line low the event cannot happen (log 2). An ADDRESS of a 10-bit read that drives the lines comes to the Restart inside it
(R105, R108): it makes it, or waits to make it while a line is low (DESIGN CHOICE, log 32). -/
def execStartCondition (g : SegIx) (s : State) : StepResult :=
  match (s.seg g).stage, (s.seg g).linesHigh with
  | .waiting, true =>
    .next ((if (s.seg g).position = .none then
        s.advanceTo ((s.seg g).freeSince + Segment.startWait (s.seg g).config) else s).onSegment g
      { seg := (s.seg g).makeStart })
  | .driving, _ => .next (s.onSegment g { seg := (s.seg g).comeToRestart })
  | .toRestart, true => .next (s.onSegment g { seg := (s.seg g).tenBitRestart [] })
  | .waiting, false | .toRestart, false | .none, _ | .restarted, _ => .next s

/-- ADDRESS_END (R108). -/
def execAddressEnd (g : SegIx) (acks : Nat) (s : State) : StepResult := .next (s.onSegment g ((s.seg g).addressEnd acks))

/-- WRITE_BYTE_END (R109). -/
def execWriteByteEnd (g : SegIx) (ack : Bool) (s : State) : StepResult := .next (s.onSegment g ((s.seg g).writeByteEnd ack))

/-- READ_BYTE_END (R110). -/
def execReadByteEnd (g : SegIx) (b : Byte) (s : State) : StepResult := .next (s.onSegment g ((s.seg g).readByteEnd b))

/-- ACK_BIT_END (R111). -/
def execAckBitEnd (g : SegIx) (s : State) : StepResult := .next (s.onSegment g (s.seg g).ackBitEnd)

/-- STOP_END (R112). -/
def execStopEnd (g : SegIx) (s : State) : StepResult := .next (s.onSegment g ((s.seg g).stopEnd s.now))

/-- ARBITRATION_LOSS_ADDRESS (R114, R115). -/
def execArbitrationLossAddress (g : SegIx) (s : State) : StepResult :=
  .next (s.onSegment g ((s.seg g).arbitrationLossAddress s.now))

/-- ARBITRATION_LOSS (R114, R116). -/
def execArbitrationLoss (g : SegIx) (s : State) : StepResult := .next (s.onSegment g ((s.seg g).arbitrationLoss s.now))

/-- The moment a clock-low timer that has run since `t` expires: the timeout after its start (R119). -/
def clockLowDue (s : State) (g : SegIx) (t : Nat) : Nat := t + (s.seg g).config.timeout.toNat * ticksPerMs

/-- CLOCK_LOW_EXPIRY (R120): the clock is at the moment it is due or past it (log 4). A stopped timer does not expire (R119). -/
def execClockLowExpiry (g : SegIx) (s : State) : StepResult :=
  match (s.seg g).clockLow with
  | some t => .next ((s.advanceTo (clockLowDue s g t)).onSegment g ((s.seg g).clockLowExpiry g))
  | none => .next s

/-- CLEAR_CHECK (R122). -/
def execClearCheck (g : SegIx) (dscl dsda : Bool) (s : State) : StepResult :=
  .next (s.onSegment g ((s.seg g).clearCheck g s.now dscl dsda))

end Sys2Proof.Machine
end

