-- ==== Sys2Proof/Machine/Interpreter.lean ====
section
/-! DEFINITION. The command interpreter: taking a frame, writing a response, and its completion at the port (08). -/

namespace Sys2Proof.Machine

namespace State

/-- The status and payload of a result, when the response is formed: READ_STATUS takes the hold limits from the port
controllers and the settings from the interpreter now (R186). -/
def formResponse (s : State) : Result → Status × List Byte
  | .done st payload => (st, payload)
  | .statusPart items =>
    (.ok, items ++ [(s.port .u0).holdLimit, (s.port .u1).holdLimit, s.alertMask, s.idleLimit])

/-- The response written into the buffer of port `p`; the execution is removed and its completion reported (R177, R181). -/
def writeResponse (s : State) (p : Port) (r : Result) : State :=
  (s.setInterp p { buffer := responseBytes (s.formResponse r).1 (s.formResponse r).2, execution := none }).onPort p
    fun q => { q with ownDone := true }

/-- The result of port `p`'s command at the interpreter: written at once, or kept for a later write (R177; log 9). -/
def reply (s : State) (p : Port) (t : ReplyTime) (r : Result) : State :=
  match t with
  | .atOnce => s.writeResponse p r
  | .later =>
    s.setInterp p { s.interpOf p with
      execution := (s.interpOf p).execution.map fun e => { e with progress := .replying r } }

/-- The command that port `p`'s execution has passed on and that its owning block has not yet taken (R177). -/
def passedCommand (s : State) (p : Port) : Option Command :=
  match (s.interpOf p).execution with
  | some e =>
    match e.progress with
    | .passed c => some c
    | .replying _ | .restarting _ _ _ => none
  | none => none

/-- The result of port `p`'s execution that awaits its response write. -/
def waitingResult (s : State) (p : Port) : Option Result :=
  match (s.interpOf p).execution with
  | some e =>
    match e.progress with
    | .replying r => some r
    | .passed _ | .restarting _ _ _ => none
  | none => none

/-- A RESTART that passes its checks sets the RESTART condition of the other port's interpreter wait (R72, R192); a
report of an earlier RESTART not yet taken is overtaken (log 14). -/
def setRestartWait (s : State) (p : Port) : State :=
  s.onPort (otherPort p) fun q => { q with restartWait := true, restartDone := false }

/-- A handed-over frame taken (R177): refused with its status, or its command passed on. -/
def takeFrame (s : State) (p : Port) (f : Frame) : State :=
  let t := s.onPort p fun q => { q with handedOver := none }
  match judgeFrame f with
  | .error st => t.writeResponse p (.done st [])
  | .ok c =>
    let u := t.setInterp p { t.interpOf p with execution := some { frame := f, progress := .passed c } }
    match c with
    | .restart => u.setRestartWait p
    | .stage _ _ | .unstage _ | .mark _ _ | .unmark _ _ | .commit | .abandon | .renew _ _ | .revive _ _ | .readRecord _
    | .probe _ _ | .readStatus | .readSegment _ | .readNotices | .segmentConfig _ _ | .segmentAction _ _
    | .portConfig _ _ | .globalConfig _ _ | .clearNotices _ => u

/-- A response that awaits its write is written (log 9). -/
def writeWaiting (s : State) (p : Port) : State :=
  match s.waitingResult p with
  | some r => s.writeResponse p r
  | none => s

end State

namespace PortCtl

/-- The completion of the port's own execution taken: its condition is cleared, and a held address byte is judged once
the wait is clear (R70, R177). -/
def takeOwnDone (q : PortCtl) : PortCtl × Bool :=
  if q.ownDone then ({ q with ownWait := false, ownDone := false }).judgeHeld else (q, false)

/-- The completion of the other port's RESTART taken (R72, R194). -/
def takeRestartDone (q : PortCtl) : PortCtl × Bool :=
  if q.restartDone then ({ q with restartWait := false, restartDone := false }).judgeHeld else (q, false)

end PortCtl

/-- HAND_OVER (R177 to R179, R181). A frame is taken when the port's earlier messages to the table manager have been, so
that the context has unbound before the command reaches the table manager (R70, R148; log 8). -/
def execHandOver (p : Port) (s : State) : StepResult :=
  match (s.port p).handedOver, (s.port p).toTable, (s.interpOf p).execution with
  | some f, [], none => .next (s.takeFrame p f)
  | _, _, _ => .next s

/-- EXECUTION_COMPLETE (R70, R177). -/
def execExecutionComplete (p issuer : Port) (s : State) : StepResult :=
  if issuer = p then
    .next ((s.writeWaiting p).onPortMiss p ((s.writeWaiting p).port p).takeOwnDone)
  else .next (s.onPortMiss p (s.port p).takeRestartDone)

end Sys2Proof.Machine
end

