-- ==== Sys2Proof/Machine/RouteTable.lean ====
section
/-! DEFINITION. The table manager's operations: matching, selection, judgement and translation (02), what each event
does to one slot (01, 07), and the change set (06). -/

namespace Sys2Proof.Machine

/-! ### Matching and translation (2.2, 2.4) -/

namespace Record

/-- The fixed positions of the match, inside the match width (R5). -/
def fixedMask (r : Record) : Addr := r.mask &&& widthMask r.width

/-- The free positions of the match, inside the match width (R5). -/
def freeMask (r : Record) : Addr := ~~~r.mask &&& widthMask r.width

/-- Whether an address of the match width lies in the match set (R5). -/
def covers (r : Record) (a : Addr) : Bool := (a ^^^ r.key) &&& r.fixedMask == 0#10

/-- The number of fixed positions (R5, R29). -/
def fixedCount (r : Record) : Nat := (List.range 10).countP fun n => r.fixedMask.getLsbD n

/-- The translated address: the upstream bit at each free position, the target base's bit elsewhere, inside the target
width (R8, R32). -/
def translate (r : Record) (width : Width) (base a : Addr) : Addr :=
  ((a &&& r.freeMask) ||| (base &&& ~~~r.freeMask)) &&& widthMask width

/-- Whether the access allows a direction (R9). -/
def allows (r : Record) (d : Direction) : Bool :=
  match r.access, d with
  | .readWrite, _ => true
  | .read, .read => true
  | .write, .write => true
  | .read, .write => false
  | .write, .read => false

/-- Where an address phase at `a` goes through the route, when it is not a DENY route (R7, R8). -/
def destination (r : Record) (a : Addr) : Option Destination :=
  match r.target with
  | .segment g w base => some (.segment g w (r.translate w base a))
  | .localPart => some .localPart
  | .deny => none

/-- The full lifetime in oscillator periods, when the record has one (R159). -/
def leaseTicks (r : Record) : Option Nat := r.lifetime.map fun n => n.toNat * ticksPerSecond

/-- Two routes duplicate each other's match on a common port (R141). -/
def duplicates (a b : Record) : Bool :=
  a.width == b.width && a.mask == b.mask && (a.key ^^^ b.key) &&& a.fixedMask == 0#10
    && ((a.ports.u0 && b.ports.u0) || (a.ports.u1 && b.ports.u1))

/-- A LOCAL route that lists port `p` (R143). -/
def manages (r : Record) (p : Port) : Bool := r.target == .localPart && r.ports.get p

end Record

/-! ### What an event does to one slot -/

namespace Slot

/-- In service: LIVE or QUARANTINED (1.1). -/
def inService (x : Slot) : Bool := x.state == .live || x.state == .quarantined

/-- The slot become FREE, its generation kept (R3). -/
def freed (x : Slot) : Slot := Slot.freeWith x.gen

/-- The lease reloaded to the full lifetime at moment `now`: it runs on while nothing is bound, and stays paused while
something is (R159). -/
def reloaded (x : Slot) (now : Nat) : Slot :=
  match x.record.bind Record.leaseTicks with
  | none => x
  | some t => { x with lease := if x.inflight = 0 then .running (now + t) else .paused t }

/-- A bind: the in-flight count rises and the lease pauses (R22, R158). -/
def bound (x : Slot) (now : Nat) : Slot :=
  { x with
    inflight := x.inflight + 1,
    lease := match x.lease with
      | .running t => .paused (max 1 (t - now))
      | .paused left => .paused left
      | .none => .none }

/-- An unbind carrying a generation, and whether it frees a DRAINING slot (R23). -/
def unbound (x : Slot) (gen : BitVec 8) (now : Nat) : Slot × Bool :=
  if x.gen ≠ gen then (x, false)
  else
    let y := { x with inflight := x.inflight - 1 }
    match x.state with
    | .free | .staged => (x, false)
    | .live | .quarantined => (if y.inflight = 0 then y.reloaded now else y, false)
    | .draining => if y.inflight = 0 then (y.freed, true) else (y, false)

/-- An acceptance report (R80, R167). -/
def accepted (x : Slot) (gen : BitVec 8) (now : Nat) : Slot :=
  if x.gen ≠ gen then x
  else
    match x.state with
    | .live => ({ x with strikes := 0 }).reloaded now
    | .quarantined => x.reloaded now
    | .draining | .free | .staged => x

/-- A refusal report, and whether it quarantines the slot (R80, R165, R166). -/
def refused (x : Slot) (gen : BitVec 8) : Slot × Bool :=
  if x.gen ≠ gen then (x, false)
  else
    match x.state with
    | .live =>
      match x.record.bind Record.threshold with
      | none => (x, false)
      | some t =>
        if x.strikes + 1 = t.toNat then ({ x with strikes := x.strikes + 1, state := .quarantined }, true)
        else ({ x with strikes := x.strikes + 1 }, false)
    | .quarantined | .draining | .free | .staged => (x, false)

/-- REVIVE of a quarantined slot (R172). -/
def revived (x : Slot) (now : Nat) : Slot := ({ x with state := .live, strikes := 0 }).reloaded now

/-- A valid record staged into a FREE slot (R134). -/
def stagedWith (x : Slot) (r : Record) : Slot := { Slot.freeWith (x.gen + 1#8) with state := .staged, record := some r }

/-- What an applied commit does to a slot (R145). -/
def committed (x : Slot) (now : Nat) : Slot :=
  if x.state = .staged then ({ x with state := .live, strikes := 0 }).reloaded now
  else if x.mark then
    if x.inflight = 0 then x.freed else { x with state := .draining, mark := false }
  else x

/-- What ABANDON and the idle expiry do to a slot (R149). -/
def abandoned (x : Slot) : Slot := if x.state = .staged then x.freed else { x with mark := false }

/-- In the resulting in-service set of a commit (R140). -/
def resulting (x : Slot) : Bool := x.state == .staged || (x.inService && !x.mark)

/-- A predicate of the slot's record; false when the slot holds none. -/
def recordIs (x : Slot) (f : Record → Bool) : Bool := x.record.any f

end Slot

/-! ### Lookup (02) -/

/-- Whether a slot competes in a lookup (R28). -/
def Slot.competes (x : Slot) (p : Port) (q : Query) : Bool :=
  x.inService && x.recordIs fun r => r.width == q.width && r.ports.get p && r.covers q.addr

/-- The fixed positions of the slot's route. -/
def Slot.fixedCount (x : Slot) : Nat :=
  match x.record with
  | some r => r.fixedCount
  | none => 0

/-- The better of the winner so far, which has the lower index, and slot `k` (R29). -/
def betterSlot (t : Vector Slot 64) (p : Port) (q : Query) (best : Option SlotIx) (k : SlotIx) : Option SlotIx :=
  if (t.get k).competes p q then
    match best with
    | none => some k
    | some j => if (t.get j).fixedCount < (t.get k).fixedCount then some k else some j
  else best

/-- The winner among the competing slots (R29). -/
def lookupWinner (t : Vector Slot 64) (p : Port) (q : Query) : Option SlotIx :=
  (List.finRange 64).foldl (betterSlot t p q) none

/-- The segment states that are down for a lookup (R31). -/
def SegState.isDown : SegState → Bool
  | .disabled | .closing | .faulted => true
  | .clearing | .idle | .owned | .releasing => false

/-- The judgement of a winner holding record `r`: the first condition that holds (R30). -/
def judgeRecord (r : Record) (st : SlotState) (d : Direction) (segments : Vector Segment 8) : Verdict :=
  match r.target with
  | .deny => .deny
  | .segment g _ _ =>
    if !r.allows d then .access
    else if st = .quarantined then .quarantined
    else if (segments.get g).state.isDown then .segmentDown
    else .forward
  | .localPart => if !r.allows d then .access else if st = .quarantined then .quarantined else .localPart

namespace State

/-- The lookup function: the outcome, and the winning slot with its record for every outcome but NO_MATCH (R26, R30). -/
def lookupResult (s : State) (p : Port) (q : Query) : Verdict × Option (SlotIx × Record) :=
  match lookupWinner s.table p q with
  | none => (.noMatch, none)
  | some k =>
    match (s.slot k).record with
    | none => (.noMatch, none)
    | some r => (judgeRecord r (s.slot k).state q.dir s.segments, some (k, r))

/-- The binding that a lookup hands on: for LOCAL and FORWARD only (R22, R33). -/
def lookupBinding (s : State) (p : Port) (q : Query) : Option Binding :=
  match s.lookupResult p q with
  | (.localPart, some (k, r)) | (.forward, some (k, r)) =>
    (r.destination q.addr).map fun dest =>
      { slot := k, gen := (s.slot k).gen,
        snap := { dest := dest, access := r.access, limit := r.limit, counted := r.counted } }
  | _ => none

/-- Whether a prefix with high bits `h` is accepted on port `p` (R35). -/
def prefixAccepted (s : State) (p : Port) (h : BitVec 2) : Bool :=
  (List.finRange 64).any fun k =>
    (s.slot k).inService && (s.slot k).recordIs fun r =>
      r.width == .w10 && r.ports.get p && ((r.key.extractLsb' 8 2 ^^^ h) &&& r.mask.extractLsb' 8 2 == 0#2)

/-- The payload of PROBE: 7 bytes (R185, R212). -/
def probePayload (s : State) (p : Port) (q : Query) : List Byte :=
  match s.lookupResult p q with
  | (v, none) => [verdictCode v, 0#8, 0#8, 0#8, 0#8, 0#8, 0#8]
  | (v, some (k, r)) =>
    [verdictCode v, byteOf k.val, (s.slot k).gen] ++
      match r.target with
      | .segment g w base =>
        [byteOf g.val, (widthCode w).setWidth 8] ++ twoBytes ((r.translate w base q.addr).setWidth 16)
      | .localPart | .deny => [0#8, 0#8, 0#8, 0#8]

/-! ### The change set (06) -/

/-- A new idle deadline: the idle limit from now, or none when the limit is 0 (R132). -/
def idleDeadline (s : State) : Option Nat :=
  if s.idleLimit = 0#8 then none else some (s.now + s.idleLimit.toNat * ticksPer100Ms)

/-- The change set OPEN and owned by a port other than `p` (R130). -/
def heldByOther (s : State) (p : Port) : Bool :=
  match s.changeSet with
  | .empty => false
  | .opened o _ => o != p

/-- The idle deadline reloaded, when the change set is OPEN (R132). -/
def reloadIdle (s : State) : State :=
  match s.changeSet with
  | .empty => s
  | .opened o _ => { s with changeSet := .opened o s.idleDeadline }

/-- The change set OPEN for port `p` with a new deadline: opened when it was EMPTY, reloaded when `p` owns it (R131, R132). -/
def openFor (s : State) (p : Port) : State := { s with changeSet := .opened p s.idleDeadline }

/-- How many slots satisfy `f`. -/
def countSlots (s : State) (f : Slot → Bool) : Nat := (List.finRange 64).countP fun k => f (s.slot k)

/-- Every slot changed by `f`, in one event. -/
def mapSlots (s : State) (f : Slot → Slot) : State := { s with table := s.table.map f }

/-- Slots `i` and `j` of the resulting in-service set duplicate each other (R140, R141). -/
def duplicatePair (s : State) (i j : SlotIx) : Bool :=
  i != j && (s.slot i).resulting && (s.slot j).resulting &&
    (s.slot i).recordIs fun a => (s.slot j).recordIs fun b => a.duplicates b

/-- The lowest slot that duplicates slot `i` (R142). -/
def firstDuplicateOf (s : State) (i : SlotIx) : Option SlotIx := (List.finRange 64).find? fun j => s.duplicatePair i j

/-- The duplicating pair a commit names: the lowest slot in any pair, and the lowest that duplicates it (R142). -/
def duplicateFound (s : State) : Option (SlotIx × SlotIx) :=
  (List.finRange 64).findSome? fun i => (s.firstDuplicateOf i).map fun j => (i, j)

/-- Port `p` has a LOCAL route in the resulting in-service set (R143). -/
def staysManaged (s : State) (p : Port) : Bool :=
  (List.finRange 64).any fun k => (s.slot k).resulting && (s.slot k).recordIs fun r => r.manages p

/-- The first port that a commit would leave without a LOCAL route (R143). -/
def orphanFound (s : State) : Option Port := [Port.u0, Port.u1].find? fun p => !s.staysManaged p

/-- The change set abandoned: STAGED slots FREE, marks cleared, EMPTY (R149, R150). -/
def abandonChangeSet (s : State) : State := { s.mapSlots Slot.abandoned with changeSet := .empty }

/-- The change set applied (R145). -/
def applyChangeSet (s : State) : State := { s.mapSlots (fun x => x.committed s.now) with changeSet := .empty }

/-- The slot is STAGED. -/
def isStaged (x : Slot) : Bool := x.state == .staged

/-- A result without payload. -/
def plain (st : Status) : Result := .done st []

/-- STAGE at the table manager (R133, R134). -/
def takeStage (s : State) (p : Port) (k : SlotIx) (i : Image) : State × Result :=
  if s.heldByOther p then (s, plain .changesetBusy)
  else if (s.slot k).state ≠ .free then (s.reloadIdle, plain .slotBusy)
  else
    match i.firstFailure with
    | some reason => (s.reloadIdle, .done .badRecord [reason])
    | none =>
      ((s.setSlot k ((s.slot k).stagedWith (Record.ofImage i))).openFor p, .done .ok [(s.slot k).gen + 1#8])

/-- UNSTAGE at the table manager (R135). -/
def takeUnstage (s : State) (p : Port) (k : SlotIx) : State × Result :=
  if s.heldByOther p then (s, plain .changesetBusy)
  else if (s.slot k).state ≠ .staged then (s.reloadIdle, plain .slotBusy)
  else ((s.setSlot k (s.slot k).freed).reloadIdle, plain .ok)

/-- MARK at the table manager (R136). -/
def takeMark (s : State) (p : Port) (k : SlotIx) (gen : BitVec 8) : State × Result :=
  if s.heldByOther p then (s, plain .changesetBusy)
  else if !(s.slot k).inService then (s.reloadIdle, plain .slotBusy)
  else if (s.slot k).gen ≠ gen then (s.reloadIdle, plain .stale)
  else ((s.setSlot k { s.slot k with mark := true }).openFor p, plain .ok)

/-- UNMARK at the table manager (R137). -/
def takeUnmark (s : State) (p : Port) (k : SlotIx) (gen : BitVec 8) : State × Result :=
  if s.heldByOther p then (s, plain .changesetBusy)
  else if !(s.slot k).inService then (s.reloadIdle, plain .slotBusy)
  else if (s.slot k).gen ≠ gen then (s.reloadIdle, plain .stale)
  else ((s.setSlot k { s.slot k with mark := false }).reloadIdle, plain .ok)

/-- The counts of a commit: activated, freed, draining (R147). -/
def commitCounts (s : State) : List Byte :=
  [byteOf (s.countSlots isStaged), byteOf (s.countSlots fun x => x.mark && x.inflight == 0),
   byteOf (s.countSlots fun x => x.mark && x.inflight != 0)]

/-- COMMIT at the table manager (R139, R144, R145). -/
def takeCommit (s : State) (p : Port) : State × Result :=
  match s.changeSet with
  | .empty => (s, .done .ok [0#8, 0#8, 0#8])
  | .opened o _ =>
    if o ≠ p then (s, plain .changesetBusy)
    else
      match s.duplicateFound with
      | some (i, j) => (s.reloadIdle, .done .duplicateMatch [byteOf i.val, byteOf j.val])
      | none =>
        match s.orphanFound with
        | some port => (s.reloadIdle, .done .orphanPort [portCode port])
        | none => (s.applyChangeSet, .done .ok s.commitCounts)

/-- ABANDON at the table manager (R149). -/
def takeAbandon (s : State) (p : Port) : State × Result :=
  match s.changeSet with
  | .empty => (s, .done .ok [0#8, 0#8])
  | .opened o _ =>
    if o ≠ p then (s, plain .changesetBusy)
    else
      (s.abandonChangeSet,
        .done .ok [byteOf (s.countSlots isStaged), byteOf (s.countSlots fun x => x.mark)])

/-- The remaining lifetime of slot `k`, as RENEW and REVIVE answer it (R162, R172). -/
def lifetimeOf (s : State) (k : SlotIx) : List Byte := lifetimeBytes ((s.slot k).lease.seconds s.now)

/-- RENEW at the table manager (R162). -/
def takeRenew (s : State) (k : SlotIx) (gen : BitVec 8) : State × Result :=
  if !(s.slot k).inService || !((s.slot k).recordIs fun r => r.lifetime.isSome) then (s, plain .slotBusy)
  else if (s.slot k).gen ≠ gen then (s, plain .stale)
  else
    let t := s.setSlot k ((s.slot k).reloaded s.now)
    (t, .done .ok (t.lifetimeOf k))

/-- REVIVE at the table manager (R172). -/
def takeRevive (s : State) (k : SlotIx) (gen : BitVec 8) : State × Result :=
  if (s.slot k).state ≠ .quarantined then (s, plain .slotBusy)
  else if (s.slot k).gen ≠ gen then (s, plain .stale)
  else
    let t := s.setSlot k ((s.slot k).revived s.now)
    (t, .done .ok (t.lifetimeOf k))

/-- The remaining idle time in units of 100 ms, rounded up; 0 when EMPTY or without a deadline (R128). -/
def idleUnits (s : State) : Nat :=
  match s.changeSet with
  | .empty => 0
  | .opened _ none => 0
  | .opened _ (some t) => unitsRoundedUp (t - s.now) ticksPer100Ms

/-- Whether the change set is OPEN, and the code of its owner (R186). -/
def changeSetBytes (s : State) : List Byte :=
  match s.changeSet with
  | .empty => [0#8, 0#8]
  | .opened o _ => [1#8, portCode o]

/-- How many slots are in a state (R186). -/
def stateCount (s : State) (st : SlotState) : Byte := byteOf (s.countSlots fun x => x.state == st)

/-- The table manager's items of READ_STATUS, bytes 0 to 10 (R186, R212). -/
def statusItems (s : State) : List Byte :=
  [s.stateCount .free, s.stateCount .staged, s.stateCount .live, s.stateCount .quarantined, s.stateCount .draining]
    ++ s.changeSetBytes
    ++ [byteOf s.idleUnits, s.stateCount .staged, byteOf (s.countSlots fun x => x.mark), s.straps.setWidth 8]

/-- The table restart: every slot FREE with its generation, the change set EMPTY, the straps sampled again, the
management route in slot 0 with its generation plus 1 (R25). -/
def restartTable (s : State) (straps : BitVec 2) : State :=
  { s with
    changeSet := .empty, straps := straps,
    table := (s.table.map Slot.freed).set 0 (managementSlot straps ((s.slot 0).gen + 1#8)) }

end State

end Sys2Proof.Machine
end

