-- ==== Sys2Proof/Machine/Management.lean ====
section
/-! DEFINITION. The meanings of the commands that the interpreter has passed on, each one event at its owning block (06, 07,
08, 09), and DEVICE_RESET. A command other than the one the port's execution has passed on has no effect (log 2). -/

namespace Sys2Proof.Machine

/-- The owning block's result, answered at the interpreter. -/
def finish (p : Port) (t : ReplyTime) (r : State × Result) : StepResult := .next (r.1.reply p t r.2)

/-- A result OK without payload. -/
def okResult : Result := .done .ok []

/-- STAGE (R133, R134). -/
def execStage (p : Port) (t : ReplyTime) (s : State) : StepResult :=
  match s.passedCommand p with
  | some (.stage k i) => finish p t (s.takeStage p k i)
  | _ => .next s

/-- UNSTAGE (R135). -/
def execUnstage (p : Port) (t : ReplyTime) (s : State) : StepResult :=
  match s.passedCommand p with
  | some (.unstage k) => finish p t (s.takeUnstage p k)
  | _ => .next s

/-- MARK (R136). -/
def execMark (p : Port) (t : ReplyTime) (s : State) : StepResult :=
  match s.passedCommand p with
  | some (.mark k gen) => finish p t (s.takeMark p k gen)
  | _ => .next s

/-- UNMARK (R137). -/
def execUnmark (p : Port) (t : ReplyTime) (s : State) : StepResult :=
  match s.passedCommand p with
  | some (.unmark k gen) => finish p t (s.takeUnmark p k gen)
  | _ => .next s

/-- COMMIT (R139 to R147). -/
def execCommit (p : Port) (t : ReplyTime) (s : State) : StepResult :=
  match s.passedCommand p with
  | some .commit => finish p t (s.takeCommit p)
  | _ => .next s

/-- ABANDON (R149). -/
def execAbandon (p : Port) (t : ReplyTime) (s : State) : StepResult :=
  match s.passedCommand p with
  | some .abandon => finish p t (s.takeAbandon p)
  | _ => .next s

/-- RENEW (R162). -/
def execRenew (p : Port) (t : ReplyTime) (s : State) : StepResult :=
  match s.passedCommand p with
  | some (.renew k gen) => finish p t (s.takeRenew k gen)
  | _ => .next s

/-- REVIVE (R172). -/
def execRevive (p : Port) (t : ReplyTime) (s : State) : StepResult :=
  match s.passedCommand p with
  | some (.revive k gen) => finish p t (s.takeRevive k gen)
  | _ => .next s

/-- READ_RECORD (R184). -/
def execReadRecord (p : Port) (t : ReplyTime) (s : State) : StepResult :=
  match s.passedCommand p with
  | some (.readRecord k) => finish p t (s, .done .ok (recordPayload s.now (s.slot k)))
  | _ => .next s

/-- PROBE (R36, R185). -/
def execProbe (p : Port) (t : ReplyTime) (s : State) : StepResult :=
  match s.passedCommand p with
  | some (.probe port q) => finish p t (s, .done .ok (s.probePayload port q))
  | _ => .next s

/-- READ_STATUS (R186). -/
def execReadStatus (p : Port) (t : ReplyTime) (s : State) : StepResult :=
  match s.passedCommand p with
  | some .readStatus => finish p t (s, .statusPart s.statusItems)
  | _ => .next s

/-- READ_SEGMENT (R187). -/
def execReadSegment (p : Port) (t : ReplyTime) (s : State) : StepResult :=
  match s.passedCommand p with
  | some (.readSegment g) => finish p t (s, .done .ok (segmentPayload (s.seg g)))
  | _ => .next s

/-- READ_NOTICES (R203). -/
def execReadNotices (p : Port) (t : ReplyTime) (s : State) : StepResult :=
  match s.passedCommand p with
  | some .readNotices => finish p t (s, .done .ok (noticesPayload s))
  | _ => .next s

/-- SEGMENT_CONFIG at the segment controller (R99, R188). -/
def State.takeSegmentConfig (s : State) (g : SegIx) (c : ConfigChange) : State × Result :=
  match (s.seg g).state with
  | .disabled => (s.setSeg g ((s.seg g).withConfig c), okResult)
  | .clearing | .idle | .owned | .releasing | .closing | .faulted => (s, .done .segmentActive [])

/-- SEGMENT_CONFIG (R188). -/
def execSegmentConfig (p : Port) (t : ReplyTime) (s : State) : StepResult :=
  match s.passedCommand p with
  | some (.segmentConfig g c) => finish p t (s.takeSegmentConfig g c)
  | _ => .next s

/-- ENABLE (R124, R189). -/
def execEnable (p : Port) (t : ReplyTime) (s : State) : StepResult :=
  match s.passedCommand p with
  | some (.segmentAction g .enable) => finish p t (s.onSegment g (s.seg g).takeEnable, okResult)
  | _ => .next s

/-- DISABLE (R125, R189). -/
def execDisable (p : Port) (t : ReplyTime) (s : State) : StepResult :=
  match s.passedCommand p with
  | some (.segmentAction g .disable) => finish p t (s.onSegment g (s.seg g).takeDisable, okResult)
  | _ => .next s

/-- RECOVER (R124, R189). -/
def execRecover (p : Port) (t : ReplyTime) (s : State) : StepResult :=
  match s.passedCommand p with
  | some (.segmentAction g .recover) => finish p t (s.onSegment g (s.seg g).takeRecover, okResult)
  | _ => .next s

/-- PORT_CONFIG (R190). -/
def execPortConfig (p : Port) (t : ReplyTime) (s : State) : StepResult :=
  match s.passedCommand p with
  | some (.portConfig port limit) => finish p t (s.onPort port fun q => { q with holdLimit := limit }, okResult)
  | _ => .next s

/-- GLOBAL_CONFIG (R191, R204). -/
def execGlobalConfig (p : Port) (t : ReplyTime) (s : State) : StepResult :=
  match s.passedCommand p with
  | some (.globalConfig mask idle) => finish p t ({ s.withAlertMask mask with idleLimit := idle }, okResult)
  | _ => .next s

/-- CLEAR_NOTICES (R201). -/
def execClearNotices (p : Port) (t : ReplyTime) (s : State) : StepResult :=
  match s.passedCommand p with
  | some (.clearNotices mask) => finish p t (s.clearKinds mask, okResult)
  | _ => .next s

/-! ### RESTART (8.6) -/

namespace State

/-- Step 1: the other port's context is cancelled (R72, R192). -/
def restartStep1 (s : State) (p : Port) : State := s.onPort (otherPort p) PortCtl.takeCancellation

/-- Step 2: each segment controller takes the restart (R127, R192). -/
def restartStep2 (s : State) : State := (List.finRange 8).foldl (fun t g => t.onSegment g (t.seg g).takeRestart) s

/-- The management address for a strap value (R194). -/
def managementAddress (straps : BitVec 2) : Byte := 0x2C#8 + straps.setWidth 8

/-- Step 5: both buffers written, the execution complete, both conditions' clearing reported (R194). -/
def restartStep5 (s : State) (p : Port) (gen : BitVec 8) (address : Byte) : State :=
  ((s.setInterp (otherPort p)
      { s.interpOf (otherPort p) with buffer := responseBytes .none [] }).writeResponse p
        (.done .ok [gen, address])).onPort (otherPort p) fun q => { q with restartDone := true }

/-- The execution of port `p` standing at a step of RESTART. -/
def atRestartStep (s : State) (p : Port) (done : Nat) (gen : BitVec 8) (address : Byte) : State :=
  s.setInterp p { s.interpOf p with
    execution := (s.interpOf p).execution.map fun e => { e with progress := .restarting done gen address } }

/-- The RESTART in progress of port `p`: the steps done, and what step 3 has given (R192). -/
def restartProgress (s : State) (p : Port) : Option (Nat × BitVec 8 × Byte) :=
  match (s.interpOf p).execution with
  | some e =>
    match e.progress with
    | .passed .restart => some (0, 0#8, 0#8)
    | .restarting done gen address => some (done, gen, address)
    | _ => none
  | none => none

/-- The next step of port `p`'s RESTART (R192); no effect when none is in progress (log 2). -/
def restartStep (s : State) (p : Port) (straps : BitVec 2) : State :=
  match s.restartProgress p with
  | none => s
  | some (0, gen, address) => (s.restartStep1 p).atRestartStep p 1 gen address
  | some (1, gen, address) => s.restartStep2.atRestartStep p 2 gen address
  | some (2, _, _) => (s.restartTable straps).atRestartStep p 3 ((s.slot 0).gen + 1#8) (managementAddress straps)
  | some (3, gen, address) => s.emptyNotices.atRestartStep p 4 gen address
  | some (_, gen, address) => s.restartStep5 p gen address

/-- All the steps of port `p`'s RESTART that are left (R192). -/
def restartWhole (s : State) (p : Port) (straps : BitVec 2) : State :=
  (List.range 5).foldl (fun t _ => t.restartStep p straps) s

end State

/-- RESTART (R192 to R196): all the steps left in one event, or the next one, so that events at the other blocks may fall
between the steps (R195; log 10). -/
def execRestart (p : Port) (straps : BitVec 2) (whole : Bool) (s : State) : StepResult :=
  .next (if whole then s.restartWhole p straps else s.restartStep p straps)

/-- DEVICE_RESET (R24, R44, R98, R176, R199, R205): every block takes its reset values; the model's clock goes on and the
queue of commands stays (log 24). -/
def execDeviceReset (straps : BitVec 2) (s : State) : StepResult :=
  .next { State.resetWith straps with now := s.now, pending := s.pending }

end Sys2Proof.Machine
end

