-- ==== Sys2Proof/Machine/PortResults.lean ====
section
/-! DEFINITION. The meanings of the events in which a port controller takes an answer: an outcome of the table manager, a
grant or refusal, or the result of a primitive (03, 04). A message of another kind first under way leaves the event
without effect (log 2). -/

namespace Sys2Proof.Machine

/-- The first message of segment `g` to port `p`, when `f` accepts it, is taken and acted on; else the event has no effect. -/
def State.takeMessage (s : State) (p : Port) (g : SegIx) (f : PortMsg → PortCtl → Option PortCtl) : State :=
  match PortCtl.takeFrom g (s.port p).fromSegments with
  | some (m, rest) =>
    match f m { s.port p with fromSegments := rest } with
    | some q => s.setPort p q
    | none => s
  | none => s

/-- LOOKUP_OUTCOME (R50 to R53, R56, R57). -/
def execLookupOutcome (p : Port) (s : State) : StepResult :=
  match (s.port p).fromTable with
  | .lookup q _ _ b :: rest => .next (s.onPort p fun c => ({ c with fromTable := rest }).takeLookupOutcome q b)
  | _ => .next s

/-- PREFIX_OUTCOME (R50, R58). -/
def execPrefixOutcome (p : Port) (s : State) : StepResult :=
  match (s.port p).fromTable with
  | .prefixTest a :: rest => .next (s.onPort p fun c => ({ c with fromTable := rest }).takePrefixOutcome a)
  | _ => .next s

/-- GRANT_TAKEN (R54). -/
def execGrantTaken (p : Port) (g : SegIx) (s : State) : StepResult :=
  .next (s.takeMessage p g fun m q =>
    match m with
    | .grant n => some (q.takeGrant g n)
    | _ => none)

/-- REFUSAL_TAKEN (R55). -/
def execRefusalTaken (p : Port) (g : SegIx) (s : State) : StepResult :=
  .next (s.takeMessage p g fun m q =>
    match m with
    | .refusal n => some (q.takeRefusal g n)
    | _ => none)

/-- ADDRESS_ACK (R77, R87). -/
def execAddressAck (p : Port) (g : SegIx) (s : State) : StepResult :=
  .next (s.takeMessage p g fun m q =>
    match m with
    | .addressResult true => some (q.takeAddressAck g)
    | _ => none)

/-- ADDRESS_NACK (R78). -/
def execAddressNack (p : Port) (g : SegIx) (s : State) : StepResult :=
  .next (s.takeMessage p g fun m q =>
    match m with
    | .addressResult false => some (q.takeAddressNack g)
    | _ => none)

/-- WRITE_BYTE_RESULT (R85). -/
def execWriteByteResult (p : Port) (g : SegIx) (s : State) : StepResult :=
  .next (s.takeMessage p g fun m q =>
    match m with
    | .writeResult a => some (q.takeWriteResult g a)
    | _ => none)

/-- READ_BYTE_RESULT (R75, R88). -/
def execReadByteResult (p : Port) (g : SegIx) (s : State) : StepResult :=
  .next (s.takeMessage p g fun m q =>
    match m with
    | .readResult b => some (q.takeReadResult g b)
    | _ => none)

/-- ACK_BIT_DONE: taken with no effect on the context (R75). -/
def execAckBitDone (p : Port) (g : SegIx) (s : State) : StepResult :=
  .next (s.takeMessage p g fun m q =>
    match m with
    | .ackBitDone => some q
    | _ => none)

/-- LOST (R76). -/
def execLost (p : Port) (g : SegIx) (s : State) : StepResult :=
  .next (s.takeMessage p g fun m q =>
    match m with
    | .lost => some (q.takeEnding g)
    | _ => none)

/-- FAULT (R76). -/
def execFault (p : Port) (g : SegIx) (s : State) : StepResult :=
  .next (s.takeMessage p g fun m q =>
    match m with
    | .fault => some (q.takeEnding g)
    | _ => none)

/-- CANCELLED (R76). -/
def execCancelled (p : Port) (g : SegIx) (s : State) : StepResult :=
  .next (s.takeMessage p g fun m q =>
    match m with
    | .cancelled => some (q.takeEnding g)
    | _ => none)

end Sys2Proof.Machine
end

