-- ==== Sys2Proof/Machine/TableEvents.lean ====
section
/-! DEFINITION. The meanings of the events the table manager takes from the ports and from its timers (01, 02, 06, 07).
A message of another kind at the front of the port's order leaves the event without effect (log 2). -/

namespace Sys2Proof.Machine

namespace State

/-- The first message of port `p` to the table manager taken: the others stay under way. -/
def dropTableMsg (s : State) (p : Port) : State := s.onPort p fun q => { q with toTable := q.toTable.tail }

/-- An outcome sent to port `p`. -/
def replyTo (s : State) (p : Port) (r : TableReply) : State := s.onPort p fun q => { q with fromTable := q.fromTable ++ [r] }

/-- The bind of a lookup's winner, when it binds (R22). -/
def bindWinner (s : State) (b : Option Binding) : State :=
  match b with
  | some b => s.setSlot b.slot ((s.slot b.slot).bound s.now)
  | none => s

/-- The winning slot and its generation, which every outcome but NO_MATCH carries (R30, R33). -/
def lookupWinnerSlot (s : State) (p : Port) (q : Query) : Option (SlotIx × BitVec 8) :=
  (s.lookupResult p q).2.map fun w => (w.1, (s.slot w.1).gen)

/-- A lookup taken at the table manager (R26): the outcome, the bind and MISS in one event. -/
def takeLookup (s : State) (p : Port) (q : Query) : State :=
  let v := (s.lookupResult p q).1
  let b := s.lookupBinding p q
  (((s.bindWinner b).dropTableMsg p).replyTo p (.lookup q v (s.lookupWinnerSlot p q) b)).raiseIf (v == .noMatch) (.miss p)

/-- A prefix test taken at the table manager (R35). -/
def takePrefixTest (s : State) (p : Port) (h : BitVec 2) : State :=
  ((s.dropTableMsg p).replyTo p (.prefixTest (s.prefixAccepted p h))).raiseIf (!s.prefixAccepted p h) (.miss p)

end State

/-- LOOKUP (R26 to R34). A port's lookup is taken once the port has taken every earlier outcome of its own, so that a
context unbinds before it binds again (R22); DESIGN CHOICE, log 29. -/
def execLookup (p : Port) (s : State) : StepResult :=
  match (s.port p).toTable, (s.port p).fromTable with
  | .lookup q :: _, [] => .next (s.takeLookup p q)
  | _, _ => .next s

/-- PREFIX_TEST (R35). -/
def execPrefixTest (p : Port) (s : State) : StepResult :=
  match (s.port p).toTable with
  | .prefixTest h :: _ => .next (s.takePrefixTest p h)
  | _ => .next s

/-- UNBIND (R23). -/
def execUnbind (p : Port) (s : State) : StepResult :=
  match (s.port p).toTable with
  | .unbind k gen :: _ =>
    let r := (s.slot k).unbound gen s.now
    .next (((s.setSlot k r.1).dropTableMsg p).raiseIf r.2 (.routeDrained k))
  | _ => .next s

/-- ACCEPTANCE_REPORT (R80, R167). -/
def execAcceptanceReport (p : Port) (s : State) : StepResult :=
  match (s.port p).toTable with
  | .acceptance k gen :: _ => .next ((s.setSlot k ((s.slot k).accepted gen s.now)).dropTableMsg p)
  | _ => .next s

/-- REFUSAL_REPORT (R80, R165, R166). -/
def execRefusalReport (p : Port) (s : State) : StepResult :=
  match (s.port p).toTable with
  | .refusal k gen :: _ =>
    let r := (s.slot k).refused gen
    .next (((s.setSlot k r.1).dropTableMsg p).raiseIf r.2 (.routeQuarantined k))
  | _ => .next s

/-- LEASE_EXPIRY (R160): the clock is at the lease's end or past it (log 4). -/
def execLeaseExpiry (k : SlotIx) (s : State) : StepResult :=
  match (s.slot k).lease with
  | .running t =>
    if (s.slot k).inService then .next (((s.advanceTo t).setSlot k (s.slot k).freed).raise (.routeExpired k)) else .next s
  | .none | .paused _ => .next s

/-- IDLE_EXPIRY (R150): the clock is at the deadline or past it (log 4). -/
def execIdleExpiry (s : State) : StepResult :=
  match s.changeSet with
  | .opened o (some t) => .next ((s.advanceTo t).abandonChangeSet.raise (.changesetExpired o))
  | .opened _ none => .next s
  | .empty => .next s

end Sys2Proof.Machine
end

