-- ==== Sys2Proof/Machine/Dispatch.lean ====
section
/-! DEFINITION. One arm for each command of the table: the call of its meaning. -/

namespace Sys2Proof.Machine

def exec (i : Instr) (s : State) : Host.Outcome State Fault Refusal :=
  match i with
  | .deviceReset straps => Sys2Proof.Machine.execDeviceReset straps s
  | .upstreamStart p => Sys2Proof.Machine.execUpstreamStart p s
  | .upstreamStop p => Sys2Proof.Machine.execUpstreamStop p s
  | .upstreamRestart p => Sys2Proof.Machine.execUpstreamRestart p s
  | .addressByte p a d => Sys2Proof.Machine.execAddressByte p a d s
  | .prefixWrite p h => Sys2Proof.Machine.execPrefixWrite p h s
  | .prefixRead p h => Sys2Proof.Machine.execPrefixRead p h s
  | .lowByte p b => Sys2Proof.Machine.execLowByte p b s
  | .lookup p => Sys2Proof.Machine.execLookup p s
  | .prefixTest p => Sys2Proof.Machine.execPrefixTest p s
  | .lookupOutcome p => Sys2Proof.Machine.execLookupOutcome p s
  | .prefixOutcome p => Sys2Proof.Machine.execPrefixOutcome p s
  | .unbind p => Sys2Proof.Machine.execUnbind p s
  | .acceptanceReport p => Sys2Proof.Machine.execAcceptanceReport p s
  | .refusalReport p => Sys2Proof.Machine.execRefusalReport p s
  | .leaseExpiry k => Sys2Proof.Machine.execLeaseExpiry k s
  | .idleExpiry => Sys2Proof.Machine.execIdleExpiry s
  | .holdExpiry p => Sys2Proof.Machine.execHoldExpiry p s
  | .commandByte p b => Sys2Proof.Machine.execCommandByte p b s
  | .responseByte p => Sys2Proof.Machine.execResponseByte p s
  | .writeDataByte p b => Sys2Proof.Machine.execWriteDataByte p b s
  | .readDataByte p => Sys2Proof.Machine.execReadDataByte p s
  | .hostAcknowledge p ack => Sys2Proof.Machine.execHostAcknowledge p ack s
  | .absorbByte p d => Sys2Proof.Machine.execAbsorbByte p d s
  | .endingByte p => Sys2Proof.Machine.execEndingByte p s
  | .grantTaken p g => Sys2Proof.Machine.execGrantTaken p g s
  | .refusalTaken p g => Sys2Proof.Machine.execRefusalTaken p g s
  | .addressAck p g => Sys2Proof.Machine.execAddressAck p g s
  | .addressNack p g => Sys2Proof.Machine.execAddressNack p g s
  | .writeByteResult p g => Sys2Proof.Machine.execWriteByteResult p g s
  | .readByteResult p g => Sys2Proof.Machine.execReadByteResult p g s
  | .ackBitDone p g => Sys2Proof.Machine.execAckBitDone p g s
  | .lost p g => Sys2Proof.Machine.execLost p g s
  | .fault p g => Sys2Proof.Machine.execFault p g s
  | .cancelled p g => Sys2Proof.Machine.execCancelled p g s
  | .segmentRequest p => Sys2Proof.Machine.execSegmentRequest p s
  | .withdrawal p => Sys2Proof.Machine.execWithdrawal p s
  | .release p => Sys2Proof.Machine.execRelease p s
  | .ask p => Sys2Proof.Machine.execAsk p s
  | .startCondition g => Sys2Proof.Machine.execStartCondition g s
  | .addressEnd g acks => Sys2Proof.Machine.execAddressEnd g acks s
  | .writeByteEnd g ack => Sys2Proof.Machine.execWriteByteEnd g ack s
  | .readByteEnd g b => Sys2Proof.Machine.execReadByteEnd g b s
  | .ackBitEnd g => Sys2Proof.Machine.execAckBitEnd g s
  | .stopEnd g => Sys2Proof.Machine.execStopEnd g s
  | .arbitrationLossAddress g => Sys2Proof.Machine.execArbitrationLossAddress g s
  | .arbitrationLoss g => Sys2Proof.Machine.execArbitrationLoss g s
  | .clockLowExpiry g => Sys2Proof.Machine.execClockLowExpiry g s
  | .clearCheck g dscl dsda => Sys2Proof.Machine.execClearCheck g dscl dsda s
  | .handOver p => Sys2Proof.Machine.execHandOver p s
  | .executionComplete p issuer => Sys2Proof.Machine.execExecutionComplete p issuer s
  | .stage p r => Sys2Proof.Machine.execStage p r s
  | .unstage p r => Sys2Proof.Machine.execUnstage p r s
  | .mark p r => Sys2Proof.Machine.execMark p r s
  | .unmark p r => Sys2Proof.Machine.execUnmark p r s
  | .commit p r => Sys2Proof.Machine.execCommit p r s
  | .abandon p r => Sys2Proof.Machine.execAbandon p r s
  | .renew p r => Sys2Proof.Machine.execRenew p r s
  | .revive p r => Sys2Proof.Machine.execRevive p r s
  | .readRecord p r => Sys2Proof.Machine.execReadRecord p r s
  | .probe p r => Sys2Proof.Machine.execProbe p r s
  | .readStatus p r => Sys2Proof.Machine.execReadStatus p r s
  | .readSegment p r => Sys2Proof.Machine.execReadSegment p r s
  | .readNotices p r => Sys2Proof.Machine.execReadNotices p r s
  | .segmentConfig p r => Sys2Proof.Machine.execSegmentConfig p r s
  | .enable p r => Sys2Proof.Machine.execEnable p r s
  | .disable p r => Sys2Proof.Machine.execDisable p r s
  | .recover p r => Sys2Proof.Machine.execRecover p r s
  | .portConfig p r => Sys2Proof.Machine.execPortConfig p r s
  | .globalConfig p r => Sys2Proof.Machine.execGlobalConfig p r s
  | .clearNotices p r => Sys2Proof.Machine.execClearNotices p r s
  | .restart p straps whole => Sys2Proof.Machine.execRestart p straps whole s

end Sys2Proof.Machine
end

