-- ==== Sys2Proof/Machine/Step.lean ====
section
/-! DEFINITION. One step of the block: the command at the front of the queue, or one oscillator period. -/

namespace Sys2Proof.Machine

/-- One step: the command at the front of the queue is executed on the state with the queue's rest; on an empty queue one
oscillator period passes (DESIGN CHOICE, log 3). -/
def step (s : State) : Host.Outcome State Fault Refusal :=
  match s.pending with
  | [] => .next s.tick
  | c :: rest => exec c { s with pending := rest }

/-- The state with the command a word spells put at the front of the queue; unchanged where it spells none (log 21). -/
def State.withFetchWord (s : State) (nbits w : Nat) : State :=
  match decodeTableWord nbits w with
  | some c => { s with pending := c :: s.pending }
  | none => s

end Sys2Proof.Machine
end

