-- ==== Sys2Proof/Safety.lean ====
section
/-! DEFINITION. What holds of a sound state of the part: the conditions that the rules say every event keeps. -/

namespace Sys2Proof.Machine

/-! ### Notices (R199, R205) -/

/-- The members a kind can have: two ports, 64 slots or eight segments (R199). -/
def Kind.universe : Kind → BitVec 64
  | .miss | .holdTimeout | .changesetExpired => 0x3#64
  | .routeQuarantined | .routeExpired | .routeDrained => BitVec.allOnes 64
  | .segmentFault | .segmentCleared => 0xFF#64

/-- A kind is present exactly when it has a member, and its members come from its universe (R199). -/
def noteOk (s : State) (k : Kind) : Prop :=
  ((s.note k).present = true ↔ (s.note k).members ≠ 0#64) ∧ (s.note k).members &&& ~~~k.universe = 0#64

/-- The notice set is sound, and ALERT has the level its flags and the mask give (R199, R205). -/
def noticesOk (s : State) : Prop :=
  (∀ k, noteOk s k) ∧ s.alertLow = alertLevel s.notices s.alertMask

/-! ### Segments (R96, R97, R100) -/

/-- A segment controller in a sound state: the table of R97, the owner of R96, the queue of R100. -/
structure SegmentOk (x : Segment) : Prop where
  /-- A segment has an owner only in OWNED (R96), and always there (R97). -/
  owner : x.owner.isSome = true ↔ x.state = .owned
  /-- The queue is empty in IDLE and wherever requests are refused (R100). -/
  queue : x.state = .disabled ∨ x.state = .idle ∨ x.state = .closing ∨ x.state = .faulted → x.queue = []
  /-- No work and no transaction where there is none to finish (R97, R112). -/
  rest : x.state = .disabled ∨ x.state = .clearing ∨ x.state = .idle ∨ x.state = .faulted →
    x.asks = [] ∧ x.position = .none
  /-- The first ask has begun or waits exactly when there is one (R107). -/
  stage : x.asks = [] ↔ x.stage = .none
  /-- Only an ADDRESS of a 10-bit read comes to a Restart inside it (R105, R108). -/
  inner : x.stage = .toRestart ∨ x.stage = .restarted → ∃ a, x.asks.head? = some (.address .w10 a .read)
  /-- Without an owner at most the primitive in progress is left, and the STOP has not ended (R117, R118). -/
  finishing : x.state = .releasing ∨ x.state = .closing → x.asks.length ≤ 1 ∧ ¬(x.asks = [] ∧ x.position = .none)
  /-- A cancellation is pending only in CLOSING, while the primitive is finished (R118). -/
  pending : x.pendingCancel.isSome = true → x.state = .closing ∧ x.asks ≠ []
  /-- The clearing attempt count (R121, R122). -/
  attempts : x.attempts ≤ 3 ∧ (x.state = .clearing → 1 ≤ x.attempts) ∧ (x.state = .faulted → x.attempts = 3)
  /-- The start retry count stays within the limit (R115). -/
  retries : x.state = .owned → x.retries ≤ x.config.retryLimit.toNat

/-- The clock-low timer runs exactly while one of its conditions holds by the latest sample of the lines (R119): so it is
stopped in DISABLED and FAULTED, and while the controller itself holds DSCL low. -/
def timerOk (x : Segment) : Prop := x.clockLow.isSome = true ↔ x.lineHeldLow = true

/-- Every segment controller is in a sound state, with its timer. -/
def segmentsOk (s : State) : Prop := ∀ g, SegmentOk (s.seg g) ∧ timerOk (s.seg g)

/-! ### Upstream ports (R43, 3.2) -/

/-- The phases in which a context is bound (3.2). -/
def Phase.isBound : Phase → Bool
  | .waitGrant | .proxy | .write | .read | .ending | .command | .response => true
  | .idle | .unaddressed | .address | .tenLow | .absorb => false

/-- The phases in which a context owns a segment (3.2). -/
def Phase.ownsSegment : Phase → Bool
  | .proxy | .write | .read | .ending => true
  | .idle | .unaddressed | .address | .tenLow | .waitGrant | .command | .response | .absorb => false

/-- The phases that receive an address byte, and may carry a binding and a segment (3.2). -/
def Phase.receivesAddress : Phase → Bool
  | .address | .tenLow => true
  | .idle | .unaddressed | .waitGrant | .proxy | .write | .read | .ending | .command | .response | .absorb => false

/-- A port controller in a sound state: the table of 3.2, the ten-bit memory of R57, the frame of R69, the fetched byte of
R95. -/
structure PortOk (q : PortCtl) : Prop where
  /-- Bound in the phases that use a route (3.2). -/
  bound : q.phase.isBound = true → q.bound.isSome = true
  /-- Unbound in IDLE, UNADDRESSED and ABSORB (3.2). -/
  unbound : q.phase = .idle ∨ q.phase = .unaddressed ∨ q.phase = .absorb → q.bound = none
  /-- Queued for a segment exactly in WAIT_GRANT (3.2). -/
  queued : q.phase = .waitGrant ↔ ∃ g, q.link = .queued g
  /-- Owning a segment in the forwarding phases (3.2). -/
  owned : q.phase.ownsSegment = true → ∃ g, q.link = .owned g
  /-- No segment elsewhere, but for one carried into ADDRESS or TEN_LOW (3.2). -/
  unlinked : (∃ g, q.link = .owned g) → q.phase.ownsSegment = true ∨ q.phase.receivesAddress = true
  /-- SCL is held throughout WAIT_GRANT and PROXY (R54, R65). -/
  held : q.phase = .waitGrant ∨ q.phase = .proxy → q.hold.isSome = true
  /-- SCL is not held where no answer is awaited (R62, R63, R64, R69, R71). -/
  free : q.phase = .idle ∨ q.phase = .unaddressed ∨ q.phase = .absorb ∨ q.phase = .ending ∨ q.phase = .command ∨
    q.phase = .response → q.hold = none
  /-- An address byte is held exactly while its outcome is awaited or the interpreter wait keeps it (R50, R70). -/
  judging : q.phase.receivesAddress = true → (q.hold.isSome = true ↔ q.awaiting = true ∨ q.held.isSome = true)
  /-- Nothing is awaited and no address byte is kept in another phase (R50). -/
  notJudging : q.phase.receivesAddress = false → q.awaiting = false ∧ q.held = none
  /-- A kept address byte has not been judged (R70). -/
  unjudged : q.held.isSome = true → q.awaiting = false
  /-- The ten-bit memory names the binding of the context (R43, R57). -/
  memory : ∀ m, q.tenBit = some m → ∃ b, q.bound = some b ∧ b.slot = m.slot ∧ b.gen = m.gen
  /-- The direction of an address phase waiting for its downstream answer is recorded (R43). -/
  direction : q.phase = .waitGrant ∨ q.phase = .proxy → q.direction.isSome = true
  /-- A fetched byte is kept in READ only (R95). -/
  fetched : q.phase ≠ .read → q.fetched = none
  /-- The byte shifted out is the fetched one, and the port is not held for it (R88). -/
  shown : q.shown = true → q.fetched.isSome = true ∧ q.hold = none
  /-- At most 16 bytes are collected, and the overflow flag means that there are 16 (R69). -/
  frame : q.frame.length ≤ 16 ∧ (q.overflow = true → q.frame.length = 16)
  /-- The command frame is empty outside COMMAND (R43). -/
  noFrame : q.phase ≠ .command → q.frame = [] ∧ q.overflow = false
  /-- The data byte count stays at 256 (R43). -/
  count : q.count ≤ 256

/-- Both port controllers are in a sound state. -/
def portsOk (s : State) : Prop := ∀ p, PortOk (s.port p)

/-! ### The route table and the change set (R1 to R3, R17 to R21, R128, R141, R143) -/

/-- A record that STAGE can have stored: it is the record of its own image, which passes the eight checks (R14). -/
def Record.valid (r : Record) : Prop := Record.ofImage r.image = r ∧ r.image.firstFailure = none

/-- The lease of an in-service slot: none without a lifetime, running while unbound, paused while bound (R158). -/
def leaseOk (x : Slot) (r : Record) : Prop :=
  if r.lifetime = none then x.lease = .none
  else if x.inflight = 0 then ∃ t, x.lease = .running t
  else ∃ left, x.lease = .paused left

/-- A slot in a sound state (R1, R3, R19, R20, R164). -/
def slotOk (x : Slot) : Prop :=
  match x.state with
  | .free => x = Slot.freeWith x.gen
  | .staged => ∃ r, r.valid ∧ x = { Slot.freeWith x.gen with state := .staged, record := some r }
  | .live => ∃ r, r.valid ∧ x.record = some r ∧ leaseOk x r ∧
      (match r.threshold with
        | none => x.strikes = 0
        | some t => x.strikes < t.toNat)
  | .quarantined => ∃ r t, r.valid ∧ x.record = some r ∧ leaseOk x r ∧ r.threshold = some t ∧ x.strikes = t.toNat
  | .draining => ∃ r, r.valid ∧ x.record = some r ∧ x.mark = false ∧ 1 ≤ x.inflight ∧ ∀ t, x.lease ≠ .running t

/-- While the change set is EMPTY no slot is STAGED and none is marked (R128). -/
def changeSetOk (s : State) : Prop :=
  s.changeSet = .empty → ∀ k, (s.slot k).state ≠ .staged ∧ (s.slot k).mark = false

/-- No two in-service slots duplicate each other's match on a common port (R141). -/
def noDuplicates (s : State) : Prop :=
  ∀ i j a b, i ≠ j → (s.slot i).inService = true → (s.slot j).inService = true → (s.slot i).record = some a →
    (s.slot j).record = some b → a.duplicates b = false

/-- Each port is listed by an in-service LOCAL route (R143). -/
def portsManaged (s : State) : Prop :=
  ∀ p, ∃ k r, (s.slot k).inService = true ∧ (s.slot k).record = some r ∧ r.manages p = true

/-- The route table and the change set in a sound state. -/
structure TableOk (s : State) : Prop where
  slots : ∀ k, slotOk (s.slot k)
  changeSet : changeSetOk s
  unique : noDuplicates s
  managed : portsManaged s

/-! ### In-flight counts and bindings (R19, R22, R23) -/

/-- The slot and generation that an untaken message to the table manager unbinds. -/
def TableMsg.unbinds : TableMsg → Option (SlotIx × BitVec 8)
  | .unbind k gen => some (k, gen)
  | .lookup _ | .prefixTest _ | .acceptance _ _ | .refusal _ _ => none

/-- A message to the table manager that presents a lookup. -/
def TableMsg.isLookup : TableMsg → Bool
  | .lookup _ => true
  | .prefixTest _ | .unbind _ _ | .acceptance _ _ | .refusal _ _ => false

/-- A message to the table manager that an outcome will answer. -/
def TableMsg.isAnswered : TableMsg → Bool
  | .lookup _ | .prefixTest _ => true
  | .unbind _ _ | .acceptance _ _ | .refusal _ _ => false

/-- The slot and generation that an untaken outcome has bound. -/
def TableReply.binds : TableReply → Option (SlotIx × BitVec 8)
  | .lookup _ _ _ (some b) => some (b.slot, b.gen)
  | .lookup _ _ _ none | .prefixTest _ => none

/-- What a port's context counts for in the in-flight counts: the binding it has recorded, the one an outcome under way
brings it, and the ones whose unbinds are under way (R19, R22, R23). -/
def PortCtl.claims (q : PortCtl) : List (SlotIx × BitVec 8) :=
  (q.bound.map fun b => (b.slot, b.gen)).toList ++ q.toTable.filterMap TableMsg.unbinds ++
    q.fromTable.filterMap TableReply.binds

/-- A port's bindings in a sound state: a context counts on at most one slot at a time, and unbinds before it binds again
(R19, R22; log 29). -/
structure BindingOk (q : PortCtl) : Prop where
  /-- The context counts on at most one slot, once (R19, R22). -/
  single : q.claims.length ≤ 1
  /-- Each message to be answered, and each outcome, is awaited or no longer awaited (R50). -/
  answers : q.toTable.countP TableMsg.isAnswered + q.fromTable.length = q.stale + (if q.awaiting then 1 else 0)
  /-- A bound context has no lookup under way (R49). -/
  settled : q.bound.isSome = true → ∀ m ∈ q.toTable, m.isLookup = false
  /-- No unbind is taken after a lookup that the port presented before it (R22). -/
  order : ∀ before q' after, q.toTable = before ++ .lookup q' :: after → ∀ m ∈ after, m.unbinds = none

/-- How many of the two contexts count on slot `k` under generation `gen`. -/
def State.claimsOn (s : State) (k : SlotIx) (gen : BitVec 8) : Nat :=
  (s.port .u0).claims.count (k, gen) + (s.port .u1).claims.count (k, gen)

/-- No slot's in-flight count is above the number of contexts bound to it, messages under way counted (R19). -/
def countsOk (s : State) : Prop :=
  (∀ p, BindingOk (s.port p)) ∧ ∀ k, (s.slot k).inflight ≤ s.claimsOn k (s.slot k).gen

/-- The in-flight count of every slot that can be bound equals the number of contexts bound to it, messages under way
counted (R19), and nothing names a STAGED slot. -/
def countsExact (s : State) : Prop :=
  ∀ k, ((s.slot k).inService = true ∨ (s.slot k).state = .draining →
      (s.slot k).inflight = s.claimsOn k (s.slot k).gen) ∧
    ((s.slot k).state = .staged → s.claimsOn k (s.slot k).gen = 0)

/-- No binding and no message under way names the generation that a slot's next record will have (R18). -/
def nextGenerationsFresh (s : State) : Prop := ∀ k, s.claimsOn k ((s.slot k).gen + 1#8) = 0

/-! ### Ports and segments (R96, R100, R103, R107) -/

/-- A message that ends a port's ownership (R76). -/
def PortMsg.isEnding : PortMsg → Bool
  | .lost | .fault | .cancelled => true
  | .grant _ | .refusal _ | .addressResult _ | .writeResult _ | .readResult _ | .ackBitDone => false

/-- The number of the request that a grant or refusal answers. -/
def PortMsg.number? : PortMsg → Option Nat
  | .grant n | .refusal n => some n
  | .addressResult _ | .writeResult _ | .readResult _ | .ackBitDone | .lost | .fault | .cancelled => none

/-- The kinds of primitive that a port asks (R107). -/
inductive AskKind where
  | address
  | writeByte
  | readByte
  | ackBit
  deriving DecidableEq, Repr

/-- The kind of a primitive. -/
def Primitive.kind : Primitive → AskKind
  | .address _ _ _ => .address
  | .writeByte _ => .writeByte
  | .readByte => .readByte
  | .ackBit _ => .ackBit

/-- The kind of the primitive that a message is the result of. -/
def PortMsg.kind? : PortMsg → Option AskKind
  | .addressResult _ => some .address
  | .writeResult _ => some .writeByte
  | .readResult _ => some .readByte
  | .ackBitDone => some .ackBit
  | .grant _ | .refusal _ | .lost | .fault | .cancelled => none

/-- The primitive that a message asks. -/
def SegMsg.ask? : SegMsg → Option Primitive
  | .ask a => some a
  | .request _ | .withdrawal | .release => none

/-- The messages of segment `g` under way to a port, in order. -/
def PortCtl.fromSegment (q : PortCtl) (g : SegIx) : List PortMsg := (q.fromSegments.filter fun m => m.1 = g).map fun m => m.2

/-- The asks that stand before a port's next request, withdrawal or release. -/
def PortCtl.leadingAsks (q : PortCtl) : List Primitive :=
  (q.toSegments.takeWhile fun m => m.2.ask?.isSome).filterMap fun m => m.2.ask?

/-- The primitives a port has asked of segment `g`, as its owner, and whose results it has not taken, in order (R107). -/
def State.outstanding (s : State) (p : Port) (g : SegIx) : List AskKind :=
  ((s.port p).fromSegment g).filterMap PortMsg.kind? ++ (s.seg g).asks.map Primitive.kind ++
    (s.port p).leadingAsks.map Primitive.kind

/-- Where a port stands with a segment, by the segment's own state: not at all, its owner, or an entry of its queue (R96). -/
inductive Standing where
  | away
  | owner (g : SegIx)
  | entry (g : SegIx)
  deriving DecidableEq, Repr

/-- How often a port stands with a segment: as its owner and as entries of its queue (R96, R100). -/
def Segment.standings (x : Segment) (p : Port) : Nat := (if x.owner = some p then 1 else 0) + x.queue.count p

/-- A port stands with the segments exactly as `w` says (R96, R100). -/
def State.stands (s : State) (p : Port) : Standing → Prop
  | .away => ∀ g, (s.seg g).standings p = 0
  | .owner g => (s.seg g).owner = some p ∧ (s.seg g).standings p = 1 ∧ ∀ h, h ≠ g → (s.seg h).standings p = 0
  | .entry g => p ∈ (s.seg g).queue ∧ (s.seg g).standings p = 1 ∧ ∀ h, h ≠ g → (s.seg h).standings p = 0

/-- The messages of a port, taken in order, give up its standing and each request they make: a withdrawal follows every
request at once and gives up an entry; a release, or a withdrawal that crosses a grant, gives up an ownership (R103). -/
def givesUp : Standing → List (SegIx × SegMsg) → Prop
  | .away, [] => True
  | .owner _, [] => False
  | .entry _, [] => False
  | .away, (_, .ask _) :: rest => givesUp .away rest
  | .owner g, (_, .ask _) :: rest => givesUp (.owner g) rest
  | .entry _, (_, .ask _) :: _ => False
  | .away, (g, .request _) :: rest => givesUp (.entry g) rest
  | .owner _, (_, .request _) :: _ => False
  | .entry _, (_, .request _) :: _ => False
  | .away, (_, .withdrawal) :: rest => givesUp .away rest
  | .owner g, (h, .withdrawal) :: rest => h = g ∧ givesUp .away rest
  | .entry g, (h, .withdrawal) :: rest => h = g ∧ givesUp .away rest
  | .away, (_, .release) :: rest => givesUp .away rest
  | .owner g, (h, .release) :: rest => h = g ∧ givesUp .away rest
  | .entry _, (_, .release) :: _ => False

/-- The other port's RESTART has passed its checks and is not complete (R192). -/
def State.restartRuns (s : State) (p : Port) : Prop :=
  ∃ e, (s.interpOf (otherPort p)).execution = some e ∧ (e.progress = .passed .restart ∨ ∃ n gen a, e.progress = .restarting n gen a)

/-- The other port's RESTART has cancelled this port's context, and the segments have not yet taken it (R72, R192). -/
def State.restartCancels (s : State) (p : Port) : Prop :=
  ∃ e gen a, (s.interpOf (otherPort p)).execution = some e ∧ e.progress = .restarting 1 gen a

/-- The primitives outstanding for an owner that has begun a new address phase (R89, R93). -/
def carriedAsks (l : List AskKind) : Prop := l = [] ∨ l = [.readByte] ∨ l = [.ackBit] ∨ l = [.ackBit, .readByte]

/-- The primitives outstanding for an owner, by phase (R74, R81, R88, R89). -/
def askedInPhase (q : PortCtl) (l : List AskKind) : Prop :=
  match q.phase with
  | .proxy => ∃ before, carriedAsks before ∧ l = before ++ [.address]
  | .write => l = if q.hold.isSome then [.writeByte] else []
  | .read => if q.fetched.isSome then l = [] else l = [.readByte] ∨ l = [.ackBit, .readByte]
  | .ending => l = [] ∨ l = [.ackBit]
  | .address | .tenLow => carriedAsks l
  | .idle | .unaddressed | .waitGrant | .command | .response | .absorb => True

/-- The request of a context that waits for segment `g`: on its way behind messages that give up every earlier standing;
or an entry of the queue; or answered by a grant or a refusal under way (R53, R100, R102, R104). -/
def requestOk (s : State) (p : Port) (g : SegIx) : Prop :=
  let q := s.port p
  let unanswered := ∀ m ∈ q.fromSegments, m.2.number? ≠ some q.requests
  (∃ w before, s.stands p w ∧ q.toSegments = before ++ [(g, .request q.requests)] ∧ givesUp w before ∧ unanswered ∧
    (∀ m ∈ before, m.2 ≠ .request q.requests) ∧ ∀ h, (s.seg h).tickets.get p ≠ q.requests) ∨
  (q.toSegments = [] ∧ s.stands p (.entry g) ∧ (s.seg g).tickets.get p = q.requests ∧ unanswered) ∨
  (q.toSegments = [] ∧ ∃ before after, q.fromSegments = before ++ (g, .grant q.requests) :: after ∧
    (∀ m ∈ before ++ after, m.2.number? ≠ some q.requests) ∧ (∀ m ∈ after, m.1 = g → m.2.kind? = none) ∧
    (s.stands p .away ∨ (s.stands p (.owner g) ∧ (s.seg g).asks = [] ∧ ∀ m ∈ after, m.1 = g → m.2.isEnding = false))) ∨
  (q.toSegments = [] ∧ s.stands p .away ∧ (g, .refusal q.requests) ∈ q.fromSegments)

/-- A port's link with the segments in a sound state (R67, R96, R100, R103, R107). -/
structure LinkOk (s : State) (p : Port) : Prop where
  /-- Without a link, the messages under way give up what the port still stands for; but for an ownership that a RESTART has
  cancelled and its second step will end (R72, R127). -/
  none : (s.port p).link = .none →
    ∃ w, s.stands p w ∧ (givesUp w (s.port p).toSegments ∨
      (s.restartCancels p ∧ (s.port p).awaiting = false ∧ (∃ g, w = .owner g) ∧ ∀ m ∈ (s.port p).toSegments, m.2.ask?.isSome = true))
  /-- A context that waits for a segment goes through it and has one request for it (R53). -/
  queued : ∀ g, (s.port p).link = .queued g →
    (∃ b h w a, (s.port p).bound = some b ∧ b.snap.dest = .segment h w a) ∧ requestOk s p g
  /-- A context that owns a segment is its owner, with the asks of its phase, or its ownership has ended (R76, R107). -/
  owned : ∀ g, (s.port p).link = .owned g →
    (∀ m ∈ (s.port p).toSegments, m.1 = g ∧ m.2.ask?.isSome = true) ∧
    (s.stands p .away ∨
      (s.stands p (.owner g) ∧ (∀ m ∈ (s.port p).fromSegment g, m.isEnding = false) ∧
        askedInPhase (s.port p) (s.outstanding p g)))
  /-- No number of a request is above the latest. -/
  numbers : (∀ m ∈ (s.port p).fromSegments, ∀ n, m.2.number? = some n → n ≤ (s.port p).requests) ∧
    (∀ g n, (g, SegMsg.request n) ∈ (s.port p).toSegments → n ≤ (s.port p).requests) ∧
    ∀ g, (s.seg g).tickets.get p ≤ (s.port p).requests
  /-- The asks of an owner that has given the segment up stay few (R107). -/
  given : ∀ g, (s.seg g).owner = some p → (s.port p).link ≠ .owned g →
    (s.seg g).asks.length + (s.port p).leadingAsks.length ≤ 3
  /-- While the other port's RESTART runs, the interpreter wait stays set (R72). -/
  waits : s.restartRuns p → (s.port p).restartWait = true ∧ (s.port p).restartDone = false

/-- Both ports' links with the segments, and every ask list, are in a sound state. -/
def linksOk (s : State) : Prop := (∀ p, LinkOk s p) ∧ ∀ g, (s.seg g).asks.length ≤ 3

/-! ### Responses and settings (R65, R181, R188) -/

/-- A response buffer: a status, the length of the payload, and a payload of at most 30 bytes (R181, R211). -/
def bufferOk (b : List Byte) : Prop := ∃ st payload, b = responseBytes st payload ∧ payload.length ≤ 30

/-- The payload of a result has room in the buffer (R181). -/
def resultOk : Result → Prop
  | .done _ payload => payload.length ≤ 30
  | .statusPart items => items.length ≤ 26

/-- A command that has passed the checks carries no hold limit and no clock-low timeout of 0 (R179, R188). -/
def commandOk : Command → Prop
  | .portConfig _ limit => limit ≠ 0#8
  | .segmentConfig _ c => c.timeout ≠ some 0#8
  | .stage _ _ | .unstage _ | .mark _ _ | .unmark _ _ | .commit | .abandon | .renew _ _ | .revive _ _ | .readRecord _
  | .probe _ _ | .readStatus | .readSegment _ | .readNotices | .segmentAction _ _ | .globalConfig _ _ | .clearNotices _
  | .restart => True

/-- An execution in progress in a sound state. -/
def executionOk (e : Execution) : Prop :=
  match e.progress with
  | .passed c => commandOk c
  | .replying r => resultOk r
  | .restarting _ _ _ => True

/-- The interpreter and the settings it hands out in a sound state: every hold limit and every clock-low timeout lies in
1 to 255 (R65, 5.2). -/
structure SettingsOk (s : State) : Prop where
  buffers : ∀ p, bufferOk (s.interpOf p).buffer
  executions : ∀ p e, (s.interpOf p).execution = some e → executionOk e
  holdLimits : ∀ p, (s.port p).holdLimit ≠ 0#8
  timeouts : ∀ g, (s.seg g).config.timeout ≠ 0#8

end Sys2Proof.Machine
end

