-- ==== Sys2Proof/WellFormed.lean ====
section
/-! DEFINITION. Which commands are well formed: the operand ranges that their types do not already give. -/

namespace Sys2Proof

/-- The 7-bit addresses 0x78 to 0x7B are the 10-bit prefixes and no 7-bit address byte carries one (R27, R49). -/
def isPrefixAddress (a : BitVec 7) : Bool := a.extractLsb' 2 5 == 0b11110#5

/-- The operand checks of the commands: an ADDRESS_BYTE carries no prefix (R49); an ADDRESS sends at most three
address bytes (R105), so at most three are answered ACK. -/
def Instr.wellFormed : Instr → Bool
  | .addressByte _ a _ => !isPrefixAddress a
  | .addressEnd _ acks => decide (acks ≤ 3)
  | .deviceReset _ | .upstreamStart _ | .upstreamStop _ | .upstreamRestart _ | .prefixWrite _ _
  | .prefixRead _ _ | .lowByte _ _ | .lookup _ | .prefixTest _ | .lookupOutcome _ | .prefixOutcome _
  | .unbind _ | .acceptanceReport _ | .refusalReport _ | .leaseExpiry _ | .idleExpiry | .holdExpiry _
  | .commandByte _ _ | .responseByte _ | .writeDataByte _ _ | .readDataByte _ | .hostAcknowledge _ _
  | .absorbByte _ _ | .endingByte _ | .grantTaken _ _ | .refusalTaken _ _ | .addressAck _ _ | .addressNack _ _
  | .writeByteResult _ _ | .readByteResult _ _ | .ackBitDone _ _ | .lost _ _ | .fault _ _ | .cancelled _ _
  | .segmentRequest _ | .withdrawal _ | .release _ | .ask _ | .startCondition _ | .writeByteEnd _ _
  | .readByteEnd _ _ | .ackBitEnd _ | .stopEnd _ | .arbitrationLossAddress _ | .arbitrationLoss _
  | .clockLowExpiry _ | .clearCheck _ _ _ | .handOver _ | .executionComplete _ _ | .stage _ _ | .unstage _ _
  | .mark _ _ | .unmark _ _ | .commit _ _ | .abandon _ _ | .renew _ _ | .revive _ _ | .readRecord _ _
  | .probe _ _ | .readStatus _ _ | .readSegment _ _ | .readNotices _ _ | .segmentConfig _ _ | .enable _ _
  | .disable _ _ | .recover _ _ | .portConfig _ _ | .globalConfig _ _ | .clearNotices _ _ | .restart _ _ _ => true

end Sys2Proof
end

