-- ==== Sys2Proof/Certificates/Slice0/Obligations.lean ====
section
/-! DEFINITION. The statements for the provers. A statement about a command names the whole state it answers, so that what
the statement does not name is unchanged. -/

namespace Sys2Proof.Machine

/-! ### What the statements are written with -/

/-- The unbind that giving up a binding sends (R23). -/
def unbindSent : Option Binding → List TableMsg
  | none => []
  | some b => [.unbind b.slot b.gen]

/-- The release that giving up an owned segment sends (R47). -/
def releaseSent : Link → List (SegIx × SegMsg)
  | .owned g => [(g, .release)]
  | .queued _ => []
  | .none => []

/-- What leaving a segment at a hold expiry sends: a release to an owned one, a withdrawal to a queued one (R66). -/
def leaveSent : Link → List (SegIx × SegMsg)
  | .owned g => [(g, .release)]
  | .queued g => [(g, .withdrawal)]
  | .none => []

/-- The withdrawal that a cancellation sends, and no release (R72). -/
def withdrawalSent : Link → List (SegIx × SegMsg)
  | .queued g => [(g, .withdrawal)]
  | .owned _ => []
  | .none => []

/-- The context in phase `ph`, its segment released and its binding given up: no ten-bit memory (R57) and no fetched byte
(R95). -/
def PortCtl.ended (q : PortCtl) (ph : Phase) : PortCtl :=
  { q with
    phase := ph, bound := none, link := .none, tenBit := none, fetched := none, shown := false,
    toTable := q.toTable ++ unbindSent q.bound, toSegments := q.toSegments ++ releaseSent q.link }

/-- Frame end: unbound, the frame handed over when it has a byte, with the own-execution condition set (R70). -/
def PortCtl.frameEnded (q : PortCtl) : PortCtl :=
  { q with
    bound := none, tenBit := none, frame := [], overflow := false, toTable := q.toTable ++ unbindSent q.bound,
    handedOver := if q.frame = [] then q.handedOver else some { bytes := q.frame, overflow := q.overflow },
    ownWait := q.ownWait || decide (q.frame ≠ []) }

/-- The moment a hold of port controller `q` that begins at `now` expires: its hold limit is in units of 0.1 ms, and the
8 MHz oscillator has 800 periods in 0.1 ms (R65). -/
def holdDeadline (now : Nat) (q : PortCtl) : Nat := now + q.holdLimit.toNat * 800

/-- An optional limit allows `n` data bytes (R83). -/
def allowsBytes (limit : Option Byte) (n : Nat) : Prop := ∀ l, limit = some l → n ≤ l.toNat

/-- The message of segment `g` first under way to a port is `m`, and `rest` is what stays under way once it is taken (R107). -/
def firstMessage (q : PortCtl) (g : SegIx) (m : PortMsg) (rest : List (SegIx × PortMsg)) : Prop :=
  ∃ before after, q.fromSegments = before ++ (g, m) :: after ∧ (∀ e ∈ before, e.1 ≠ g) ∧ rest = before ++ after

/-- A lease paused at moment `now` (R158); the time left is at least one period of the oscillator (log 16). -/
def leasePaused (now : Nat) : Lease → Lease
  | .running t => .paused (max 1 (t - now))
  | .paused left => .paused left
  | .none => .none

/-- The lease of a slot with record `r`, reloaded at moment `now`: its lifetime is in seconds of 8000000 oscillator periods;
it runs while the in-flight count `n` is 0 and is paused otherwise (R158, R159). -/
def freshLease (now : Nat) (r : Record) (n : Nat) (old : Lease) : Lease :=
  match r.lifetime with
  | none => old
  | some seconds =>
    if n = 0 then .running (now + seconds.toNat * 8000000) else .paused (seconds.toNat * 8000000)

/-- The idle deadline set now: the idle limit is in units of 100 ms, 800000 oscillator periods; a limit of 0 sets none (R132). -/
def freshDeadline (s : State) : Option Nat :=
  if s.idleLimit = 0#8 then none else some (s.now + s.idleLimit.toNat * 800000)

/-- The change set after a change-set command of its owner that leaves it OPEN, or of any port while it is EMPTY (R132). -/
def touched (s : State) : ChangeSet :=
  match s.changeSet with
  | .empty => .empty
  | .opened o _ => .opened o (freshDeadline s)

/-- A port may command the change set: it is EMPTY, or OPEN and owned by the port (R130). -/
def mayCommand (s : State) (p : Port) : Prop := s.changeSet = .empty ∨ ∃ d, s.changeSet = .opened p d

/-- A slot in service (1.1). -/
def serves (x : Slot) : Prop := x.state = .live ∨ x.state = .quarantined

/-- A segment that enters IDLE, its queue's head granted in the same event (R102). -/
def idleOrGranted (x : Segment) : Segment :=
  match x.queue with
  | [] =>
    { x with state := .idle, owner := none, asks := [], stage := .none, position := .none, pendingCancel := none }
  | p :: rest =>
    { x with state := .owned, owner := some p, queue := rest, asks := [], stage := .none, position := .none,
             pendingCancel := none, retries := 0 }

/-- The grant that an entry to IDLE sends (R102), under the number of the port's request (log 19). -/
def grantOnIdle (x : Segment) : List (Port × PortMsg) :=
  match x.queue with
  | [] => []
  | p :: _ => [(p, .grant (x.tickets.get p))]

/-- A segment at the end of CLOSING (R118). -/
def disabledAfter (x : Segment) : Segment :=
  { x with state := .disabled, owner := none, asks := [], stage := .none, position := .none, pendingCancel := none,
           clockLow := none }

/-- A segment whose bus clear begins: the first attempt counts 1 (R121). The controller pulls DSCL low at once, so a clock-low
condition ends there and the timer starts anew (R119). -/
def clearingFrom (x : Segment) : Segment :=
  { x with state := .clearing, owner := none, asks := [], stage := .none, position := .none, pendingCancel := none,
           clockLow := none, attempts := 1, driven := [] }

/-- A condition of the clock-low timer holds by the latest sample of the lines (R119): something outside pulls DSCL low, or
DSDA while the controller waits to make its Start or Restart, the one inside a 10-bit read too (log 32). There is none in DISABLED and FAULTED, and between the
primitives of an open transaction the owner's controller itself holds DSCL low (R105). That the wind-down before a Restart
counts as that wait is the model's choice (log 12). -/
abbrev lineLow (x : Segment) : Prop :=
  (x.state ∈ [SegState.clearing, .idle, .releasing, .closing] ∨
    (x.state = .owned ∧ (x.position = .none ∨ x.stage ≠ .none))) ∧
  (x.dsclLow = true ∨ (x.stage ∈ [Stage.waiting, .toRestart] ∧ x.dsdaLow = true))

/-- The clock-low timer after an event at moment `now`: while a condition goes on it keeps its start, one that begins starts
it, and without one it is stopped (R119). -/
def clocked (now : Nat) (x : Segment) : Segment :=
  { x with clockLow := if lineLow x then some (x.clockLow.getD now) else none }

/-- The primitive in progress drives the lines: an ADDRESS that waits to make a Start has driven nothing (R117). -/
def drives (x : Segment) : Prop :=
  x.stage ∈ [Stage.driving, .toRestart, .restarted] ∨ (x.stage = .waiting ∧ x.position ≠ .none)

/-- A message to a port that may be absent. -/
def sentTo (p : Option Port) (m : PortMsg) : List (Port × PortMsg) :=
  match p with
  | some r => [(r, m)]
  | none => []

/-- The refusals of a segment's queue, in queue order (R104), each under the number of its port's request (log 19). -/
def refusalsOf (x : Segment) : List (Port × PortMsg) := x.queue.map fun p => (p, .refusal (x.tickets.get p))

/-- An OWNED segment that has lost its owner by a release: RELEASING, where a primitive that drives the lines is finished;
with nothing to finish and no transaction open its STOP ends in the same event (R112, R117; log 11). -/
def releasedBy (x : Segment) (y : Segment) (sends : List (Port × PortMsg)) : Prop :=
  (drives x → y = { x with state := .releasing, owner := none, asks := x.asks.take 1 } ∧ sends = []) ∧
  (¬ drives x → x.position ≠ .none →
    y = { x with state := .releasing, owner := none, asks := [], stage := .none } ∧ sends = []) ∧
  (¬ drives x → x.position = .none → y = idleOrGranted x ∧ sends = grantOnIdle x)

/-- The first of a list of asks begins: an ADDRESS waits to make its Start or Restart and counts its retries from 0 (R108), any
other primitive drives the lines at once (R107). -/
def beginsWith (x : Segment) (asks : List Primitive) : Segment :=
  match asks with
  | [] => { x with asks := [], stage := .none }
  | .address w a d :: rest => { x with asks := .address w a d :: rest, stage := .waiting, retries := 0 }
  | a :: rest => { x with asks := a :: rest, stage := .driving }

/-- How command `c` ends primitive `a` on segment `g`: the position, the result, and what has been driven (R108 to R111). -/
def endOf (c : Instr) (g : SegIx) (a : Primitive) : Option (Position × PortMsg × List Drive) :=
  match c, a with
  | .addressEnd h acks, .address w ad d =>
    if h = g then
      let sent := Segment.firstBytes (acks + 1) (Segment.addressDrives w ad d)
      if Segment.addressLength w d ≤ acks then
        some (match d with
          | .read => .clientSending
          | .write => .boundary, .addressResult true, sent)
      else some (.boundary, .addressResult false, sent)
    else none
  | .writeByteEnd h ack, .writeByte b => if h = g then some (.boundary, .writeResult ack, [.byte b]) else none
  | .readByteEnd h b, .readByte => if h = g then some (.ackOpen, .readResult b, [.clockIn]) else none
  | .ackBitEnd h, .ackBit true => if h = g then some (.clientSending, .ackBitDone, [.ack]) else none
  | .ackBitEnd h, .ackBit false => if h = g then some (.boundary, .ackBitDone, [.nack]) else none
  | _, _ => none

/-- `c` ends an ADDRESS `a` of a 10-bit read at its last byte, so that the Restart before that byte has been made (R105,
R108). -/
def endsAfterRestart (c : Instr) (a : Primitive) : Prop :=
  ∃ g n ad, c = .addressEnd g n ∧ a = .address .w10 ad .read ∧ 2 ≤ n

/-- What the wind-down drives before a Stop or Restart (R106). -/
def woundDown : Position → List Drive
  | .none | .boundary => []
  | .clientSending => [.clockIn, .nack]
  | .ackOpen => [.nack]

/-- Context `q`, holding SCL, with a 7-bit address judged: its lookup presented, a carried binding given up before it (R49,
R50). -/
def sevenBitJudged (q : PortCtl) (a : BitVec 7) (d : Direction) : PortCtl :=
  { q with
    direction := some d, awaiting := true, bound := none, tenBit := none,
    toTable := q.toTable ++ unbindSent q.bound ++ [.lookup { width := .w7, addr := a.setWidth 10, dir := d }] }

/-- Context `q`, holding SCL, with a low byte judged: the lookup of the ten bits presented, a carried binding given up before
it (R59). -/
def lowByteJudged (q : PortCtl) (b : Byte) : PortCtl :=
  { q with
    direction := some .write, awaiting := true, bound := none, tenBit := none,
    toTable := q.toTable ++ unbindSent q.bound ++ [.lookup { width := .w10, addr := q.high ++ b, dir := .write }] }

/-- Context `q`, holding SCL, with a prefix with write judged: the prefix test presented, nothing given up but the ten-bit
memory (R58). -/
def prefixWriteJudged (q : PortCtl) (h : BitVec 2) : PortCtl :=
  { q with tenBit := none, high := h, awaiting := true, toTable := q.toTable ++ [.prefixTest h] }

/-- Context `q`, holding SCL, whose prefix with read continues the ten-bit memory of a route to segment `g`, width `w`, address
`a`: PROXY on the segment it owns, else a request (R60). -/
def prefixReadContinued (q : PortCtl) (g : SegIx) (w : Width) (a : Addr) : PortCtl :=
  match q.link with
  | .owned o =>
    { q with
      direction := some .read, phase := .proxy, toSegments := q.toSegments ++ [(o, .ask (.address w a .read))] }
  | .queued _ | .none =>
    { q with
      direction := some .read, phase := .waitGrant, link := .queued g, requests := q.requests + 1,
      toSegments := q.toSegments ++ [(g, .request (q.requests + 1))] }

/-- Context `q` with a prefix with read refused: what it carries given up, the host answered NACK (R60, R61). The direction is
recorded (log 25). -/
def prefixReadRefused (q : PortCtl) : PortCtl :=
  { q.ended .unaddressed with direction := some .read, hold := none, lastAnswer := some .nack }

/-- The content of a response buffer for a result: status, payload length, payload; READ_STATUS takes its last four items from
the state in which it is written (R181, R186). -/
def bufferFor (s : State) : Result → List Byte
  | .done st payload => statusCode st :: byteOf payload.length :: payload
  | .statusPart items =>
    0#8 :: byteOf (items.length + 4) :: (items ++ [(s.port .u0).holdLimit, (s.port .u1).holdLimit, s.alertMask, s.idleLimit])

/-- Event `c` at port `p` takes the completion of an execution, which leaves `u` before any address byte kept is judged: of the
port's own execution, whose response stands already or is written now (log 9), or of the other port's RESTART (R70, R72,
R177, R194). -/
def takesCompletion (s : State) (p : Port) (c : Instr) (u : State) : Prop :=
  (c = .executionComplete p p ∧ (∀ e r, (s.interpOf p).execution = some e → e.progress ≠ .replying r) ∧
    (s.port p).ownDone = true ∧ u = s.setPort p { s.port p with ownWait := false, ownDone := false }) ∨
  (c = .executionComplete p p ∧ ∃ e r, (s.interpOf p).execution = some e ∧ e.progress = .replying r ∧
    u = (s.setInterp p { buffer := bufferFor s r, execution := none }).setPort p
      { s.port p with ownWait := false, ownDone := false }) ∨
  (c = .executionComplete p (otherPort p) ∧ (s.port p).restartDone = true ∧
    u = s.setPort p { s.port p with restartWait := false, restartDone := false })

/-- The row that executes a command at its owning block, for an issuing port and a time of the reply; RESTART is stated by its
steps. -/
def rowOf (p : Port) (t : ReplyTime) : Command → Option Instr
  | .stage _ _ => some (.stage p t)
  | .unstage _ => some (.unstage p t)
  | .mark _ _ => some (.mark p t)
  | .unmark _ _ => some (.unmark p t)
  | .commit => some (.commit p t)
  | .abandon => some (.abandon p t)
  | .renew _ _ => some (.renew p t)
  | .revive _ _ => some (.revive p t)
  | .readRecord _ => some (.readRecord p t)
  | .probe _ _ => some (.probe p t)
  | .readStatus => some (.readStatus p t)
  | .readSegment _ => some (.readSegment p t)
  | .readNotices => some (.readNotices p t)
  | .segmentConfig _ _ => some (.segmentConfig p t)
  | .segmentAction _ .enable => some (.enable p t)
  | .segmentAction _ .disable => some (.disable p t)
  | .segmentAction _ .recover => some (.recover p t)
  | .portConfig _ _ => some (.portConfig p t)
  | .globalConfig _ _ => some (.globalConfig p t)
  | .clearNotices _ => some (.clearNotices p t)
  | .restart => none

/-- What a record image must meet for validity check `n` (R14 to R16), in the numbers and addresses that its fields stand
for. -/
def imageCheck (i : Image) : Nat → Prop
  | 1 =>
    (i.matchWidth.toNat = 7 ∨ i.matchWidth.toNat = 10) ∧ i.key.toNat < 2 ^ i.matchWidth.toNat ∧
      i.mask.toNat < 2 ^ i.matchWidth.toNat
  | 2 => i.ports.toNat = 1 ∨ i.ports.toNat = 2 ∨ i.ports.toNat = 3
  | 3 =>
    (i.kind.toNat = 1 ∨ i.kind.toNat = 2 ∨ i.kind.toNat = 3) ∧
      (i.access.toNat = 1 ∨ i.access.toNat = 2 ∨ i.access.toNat = 3) ∧
      (i.kind.toNat = 1 → i.segment.toNat ≤ 7 ∧ (i.targetWidth.toNat = 7 ∨ i.targetWidth.toNat = 10) ∧
        i.base.toNat < 2 ^ i.targetWidth.toNat) ∧
      (i.kind.toNat ≠ 1 → i.segment.toNat = 0 ∧ i.targetWidth.toNat = 0 ∧ i.base.toNat = 0)
  | 4 => i.kind.toNat = 1 → ∀ n, n < i.matchWidth.toNat → i.mask.getLsbD n = false → n < i.targetWidth.toNat
  | 5 =>
    i.matchWidth.toNat = 7 → ∀ a : BitVec 16, a.toNat < 0x80 →
      (∀ n, n < 7 → i.mask.getLsbD n = true → a.getLsbD n = i.key.getLsbD n) → a.toNat < 0x78
  | 6 =>
    i.kind.toNat = 1 → i.targetWidth.toNat = 7 → ∀ a : BitVec 16, a.toNat < 0x80 →
      (∀ n, n < 7 → i.mask.getLsbD n = true → a.getLsbD n = i.base.getLsbD n) → a.toNat < 0x78
  | 7 => i.counted.toNat = 1 → i.access.toNat = 2 ∨ i.access.toNat = 3
  | 8 =>
    (i.kind.toNat = 2 ∨ i.kind.toNat = 3 → i.limit.toNat = 0 ∧ i.counted.toNat = 0 ∧ i.threshold.toNat = 0) ∧
      (i.kind.toNat = 2 → i.lifetime.toNat = 0)
  | _ => True

end Sys2Proof.Machine

section

open Sys2Proof Sys2Proof.Machine

/-! ### The block as a whole -/

/-- A step executes the command at the front of the queue on the state with the queue's rest. On an empty queue one oscillator
period passes and every segment samples its lines, whose outside levels are free (MODEL's choice, logs 3 and 5): the
clock-low timer runs on, starts or stops as R119 says, and in SHARED mode the bus-free count starts again while a line is low,
in this sample or in the one before, which stood until now (R113). -/
def Obligations.StepTakesTheFrontCommandOrAPeriod : Prop :=
  (∀ (c : Instr) (rest : List Instr) (s : State), step { s with pending := c :: rest } = exec c { s with pending := rest }) ∧
  ∀ s : State, s.pending = [] →
    ∃ t, step s = .next t ∧ t = { s with now := s.now + 1, segments := t.segments } ∧
      ∀ g, ∃ scl sda : Bool,
        let x := s.seg g
        t.seg g = clocked (s.now + 1) { x with
          dsclLow := scl, dsdaLow := sda,
          freeSince :=
            if x.config.mode = .shared ∧ (scl = true ∨ sda = true ∨ x.dsclLow = true ∨ x.dsdaLow = true) then s.now + 1
            else x.freeSince }

/-- Every command answers a next state in every state, and leaves the queue alone. -/
def Obligations.EveryCommandAnswersANextState : Prop :=
  ∀ (c : Instr) (s : State), ∃ t, exec c s = .next t ∧ t.pending = s.pending

/-- DEVICE_RESET: every block takes the values the rules give (R24, R44, R98, 5.2, R129, R176, R199, R205); the fields of the
model's own as logs 20, 22 and 24 say. -/
def Obligations.DeviceResetSetsEveryBlock : Prop :=
  ∀ (straps : BitVec 2) (s : State), ∃ t, exec (.deviceReset straps) s = .next t ∧
    t.now = s.now ∧ t.pending = s.pending ∧ t.straps = straps ∧ t.changeSet = .empty ∧
    (t.slot 0 =
      { state := .live, mark := false, gen := 0#8, inflight := 0, strikes := 0, lease := .none,
        record := some { width := .w7, key := 0x2C#10 + straps.setWidth 10, mask := 0x7F#10,
                         ports := { u0 := true, u1 := true }, target := .localPart, access := .readWrite, limit := none,
                         counted := false, threshold := none, lifetime := none } }) ∧
    (∀ k, k ≠ 0 → t.slot k =
      { state := .free, record := none, mark := false, gen := 0#8, inflight := 0, strikes := 0, lease := .none }) ∧
    (∀ p, t.port p =
      { phase := .idle, direction := none, bound := none, link := .none, count := 0, declared := none, frame := [],
        overflow := false, tenBit := none, ownWait := false, restartWait := false, hold := none, holdLimit := 100#8,
        fetched := none, shown := false, held := none, high := 0#2, awaiting := false, stale := 0, requests := 0,
        lastAnswer := none,
        toTable := [], fromTable := [], toSegments := [], fromSegments := [], handedOver := none, ownDone := false,
        restartDone := false }) ∧
    (∀ g, t.seg g =
      { state := .disabled, owner := none, queue := [], tickets := { u0 := 0, u1 := 0 }, asks := [], stage := .none, position := .none,
        pendingCancel := none, attempts := 0, retries := 0, clockLow := none, freeSince := 0, dsclLow := false,
        dsdaLow := false, driven := [],
        config := { rate := .standard, mode := .sole, busFree := .p8, timeout := 25#8, retryLimit := 3#3 } }) ∧
    (∀ p, t.interpOf p = { buffer := [0x01#8, 0x00#8], execution := none }) ∧
    t.alertMask = 0#8 ∧ t.idleLimit = 50#8 ∧ (∀ k, t.note k = { present := false, members := 0#64 }) ∧ t.alertLow = false

/-- A command whose event cannot happen where the block stands has no effect (MODEL's choice, logs 2, 8 and 29): a bus
condition or an address byte while the port holds SCL, a byte that the phase does not take, an expiry that is not set, a
message of another kind first under way or none, a lookup before the port has taken its earlier outcomes, a command that the
port's execution has not passed on, a completion that is not there, an end of a primitive that is not in progress. -/
def Obligations.UntimelyCommandsChangeNothing : Prop :=
  (∀ (s : State) (p : Port),
    ((s.port p).hold.isSome = true → ∀ c ∈ [Instr.upstreamStart p, .upstreamStop p, .upstreamRestart p], exec c s = .next s) ∧
    ((s.port p).phase ≠ .address ∨ (s.port p).hold.isSome = true → ∀ a d h,
      exec (.addressByte p a d) s = .next s ∧ exec (.prefixWrite p h) s = .next s ∧ exec (.prefixRead p h) s = .next s) ∧
    ((s.port p).phase ≠ .tenLow ∨ (s.port p).hold.isSome = true → ∀ b, exec (.lowByte p b) s = .next s) ∧
    ((s.port p).phase ≠ .command → ∀ b, exec (.commandByte p b) s = .next s) ∧
    ((s.port p).phase ≠ .response → exec (.responseByte p) s = .next s) ∧
    ((s.port p).phase ≠ .write ∨ (s.port p).hold.isSome = true → ∀ b, exec (.writeDataByte p b) s = .next s) ∧
    ((s.port p).phase ≠ .read ∨ (s.port p).hold.isSome = true → exec (.readDataByte p) s = .next s) ∧
    ((s.port p).phase ≠ .read ∨ (s.port p).shown = false → ∀ ack, exec (.hostAcknowledge p ack) s = .next s) ∧
    ((s.port p).phase ≠ .absorb → ∀ d, exec (.absorbByte p d) s = .next s) ∧
    ((s.port p).phase ≠ .ending → exec (.endingByte p) s = .next s) ∧
    ((s.port p).hold = none → exec (.holdExpiry p) s = .next s)) ∧
  (∀ (s : State) (p : Port),
    let first := (s.port p).toTable.head?
    ((∀ q, first ≠ some (.lookup q)) ∨ (s.port p).fromTable ≠ [] → exec (.lookup p) s = .next s) ∧
    ((∀ h, first ≠ some (.prefixTest h)) → exec (.prefixTest p) s = .next s) ∧
    ((∀ k gen, first ≠ some (.unbind k gen)) → exec (.unbind p) s = .next s) ∧
    ((∀ k gen, first ≠ some (.acceptance k gen)) → exec (.acceptanceReport p) s = .next s) ∧
    ((∀ k gen, first ≠ some (.refusal k gen)) → exec (.refusalReport p) s = .next s) ∧
    ((∀ q v n b, (s.port p).fromTable.head? ≠ some (.lookup q v n b)) → exec (.lookupOutcome p) s = .next s) ∧
    ((∀ a, (s.port p).fromTable.head? ≠ some (.prefixTest a)) → exec (.prefixOutcome p) s = .next s)) ∧
  (∀ (s : State) (p : Port),
    let first := (s.port p).toSegments.head?
    ((∀ g n, first ≠ some (g, .request n)) → exec (.segmentRequest p) s = .next s) ∧
    ((∀ g, first ≠ some (g, .withdrawal)) → exec (.withdrawal p) s = .next s) ∧
    ((∀ g, first ≠ some (g, .release)) → exec (.release p) s = .next s) ∧
    ((∀ g a, first ≠ some (g, .ask a)) → exec (.ask p) s = .next s)) ∧
  (∀ (s : State) (p : Port) (g : SegIx),
    let absent := fun m : PortMsg => ∀ rest, ¬ firstMessage (s.port p) g m rest
    ((∀ n, absent (.grant n)) → exec (.grantTaken p g) s = .next s) ∧
    ((∀ n, absent (.refusal n)) → exec (.refusalTaken p g) s = .next s) ∧
    (absent (.addressResult true) → exec (.addressAck p g) s = .next s) ∧
    (absent (.addressResult false) → exec (.addressNack p g) s = .next s) ∧
    ((∀ a, absent (.writeResult a)) → exec (.writeByteResult p g) s = .next s) ∧
    ((∀ b, absent (.readResult b)) → exec (.readByteResult p g) s = .next s) ∧
    (absent .ackBitDone → exec (.ackBitDone p g) s = .next s) ∧
    (absent .lost → exec (.lost p g) s = .next s) ∧
    (absent .fault → exec (.fault p g) s = .next s) ∧
    (absent .cancelled → exec (.cancelled p g) s = .next s)) ∧
  (∀ (s : State) (p : Port) (t : ReplyTime) (straps : BitVec 2) (whole : Bool),
    (∀ row ∈ [Instr.stage p t, .unstage p t, .mark p t, .unmark p t, .commit p t, .abandon p t, .renew p t, .revive p t,
              .readRecord p t, .probe p t, .readStatus p t, .readSegment p t, .readNotices p t, .segmentConfig p t,
              .enable p t, .disable p t, .recover p t, .portConfig p t, .globalConfig p t, .clearNotices p t],
      (∀ c, s.passedCommand p = some c → rowOf p t c ≠ some row) → exec row s = .next s) ∧
    ((∀ e, (s.interpOf p).execution = some e →
        e.progress ≠ .passed .restart ∧ ∀ n gen a, e.progress ≠ .restarting n gen a) →
      exec (.restart p straps whole) s = .next s) ∧
    ((s.port p).handedOver = none ∨ (s.port p).toTable ≠ [] ∨ (s.interpOf p).execution ≠ none →
      exec (.handOver p) s = .next s) ∧
    ((s.port p).ownDone = false → (∀ e r, (s.interpOf p).execution = some e → e.progress ≠ .replying r) →
      exec (.executionComplete p p) s = .next s) ∧
    ((s.port p).restartDone = false → exec (.executionComplete p (otherPort p)) s = .next s)) ∧
  (∀ (s : State) (k : SlotIx),
    (¬ serves (s.slot k) ∨ (∀ e, (s.slot k).lease ≠ .running e) → exec (.leaseExpiry k) s = .next s) ∧
    (s.changeSet = .empty → exec .idleExpiry s = .next s)) ∧
  (∀ (s : State) (g : SegIx), SegmentOk (s.seg g) → timerOk (s.seg g) →
    let x := s.seg g
    (x.stage ∈ [Stage.none, .restarted] ∨ (x.stage = .driving ∧ ∀ a rest, x.asks ≠ .address .w10 a .read :: rest) →
      exec (.startCondition g) s = .next s) ∧
    (∀ n ack b, ∀ c ∈ [Instr.addressEnd g n, .writeByteEnd g ack, .readByteEnd g b, .ackBitEnd g],
      ¬ drives x ∨ (∀ a rest, x.asks = a :: rest → endOf c g a = none) → exec c s = .next s) ∧
    (x.stage ∈ [Stage.waiting, .toRestart] → x.dsclLow = true ∨ x.dsdaLow = true →
      ∀ n, exec (.addressEnd g n) s = .next s) ∧
    (∀ a rest n, x.asks = .address .w10 a .read :: rest →
      (x.stage = .driving → 2 ≤ n → x.dsclLow = true ∨ x.dsdaLow = true → exec (.addressEnd g n) s = .next s) ∧
      (x.stage ∈ [Stage.toRestart, .restarted] → n < 2 → exec (.addressEnd g n) s = .next s)) ∧
    (x.asks ≠ [] ∨ x.state ∉ [SegState.releasing, .closing] → exec (.stopEnd g) s = .next s) ∧
    (x.state ≠ .owned ∨ ¬ drives x ∨ (∀ w a d rest, x.asks ≠ .address w a d :: rest) →
      exec (.arbitrationLossAddress g) s = .next s) ∧
    (x.state ∉ [SegState.releasing, .closing] →
      x.state ≠ .owned ∨ ¬ drives x ∨ x.asks = [] ∨ (∃ w a d rest, x.asks = .address w a d :: rest) →
      exec (.arbitrationLoss g) s = .next s) ∧
    (x.state ≠ .clearing → ∀ dscl dsda, exec (.clearCheck g dscl dsda) s = .next s))

/-! ### Upstream bus conditions (3.3) -/

/-- A Start in IDLE (R46). -/
def Obligations.UpstreamStartOpensAnAddressPhase : Prop :=
  ∀ (s : State) (p : Port), PortOk (s.port p) → (s.port p).phase = .idle →
    exec (.upstreamStart p) s =
      .next (s.setPort p { s.port p with
        phase := .address, bound := none, link := .none, count := 0, declared := none, direction := none, tenBit := none })

/-- A Restart in any other phase ends the address phase; in COMMAND it performs frame end first (R48, R70). The Start row and
the Restart row are one condition, told apart by the phase (R45, log 15). -/
def Obligations.UpstreamRestartKeepsWhatTheContextCarries : Prop :=
  ∀ (s : State) (p : Port), (s.port p).phase ≠ .idle → (s.port p).hold = none →
    ((s.port p).phase ≠ .command →
      exec (.upstreamRestart p) s =
        .next (s.setPort p { s.port p with
          phase := .address, count := 0, declared := none, direction := none, fetched := none, shown := false })) ∧
    ((s.port p).phase = .command →
      exec (.upstreamRestart p) s =
        .next (s.setPort p { (s.port p).frameEnded with
          phase := .address, count := 0, declared := none, direction := none, fetched := none, shown := false })) ∧
    exec (.upstreamStart p) s = exec (.upstreamRestart p) s

/-- A Stop, phase by phase (R47). -/
def Obligations.UpstreamStopEndsTheTransaction : Prop :=
  ∀ (s : State) (p : Port), PortOk (s.port p) → (s.port p).hold = none →
    ((s.port p).phase ∈ [Phase.write, .read, .ending, .address, .tenLow] →
      exec (.upstreamStop p) s = .next (s.setPort p { (s.port p).ended .idle with count := 0, declared := none })) ∧
    ((s.port p).phase = .command →
      exec (.upstreamStop p) s =
        .next (s.setPort p { (s.port p).frameEnded with phase := .idle, count := 0, declared := none })) ∧
    ((s.port p).phase = .response →
      exec (.upstreamStop p) s =
        .next (s.setPort p { s.port p with
          phase := .idle, bound := none, tenBit := none, count := 0, declared := none,
          toTable := (s.port p).toTable ++ unbindSent (s.port p).bound })) ∧
    ((s.port p).phase = .unaddressed ∨ (s.port p).phase = .absorb →
      exec (.upstreamStop p) s =
        .next (s.setPort p { s.port p with phase := .idle, tenBit := none, count := 0, declared := none })) ∧
    ((s.port p).phase = .idle → exec (.upstreamStop p) s = .next s)

/-! ### Address bytes (3.4, 3.5) -/

/-- A 7-bit address byte and a low byte present a lookup, a carried binding given up before it; a 10-bit prefix with write
presents the prefix test and gives nothing up (R49, R50, R58). The port holds SCL from the byte's end (R65). -/
def Obligations.AddressBytesArePresentedToTheTable : Prop :=
  ∀ (s : State) (p : Port), (s.port p).hold = none → (s.port p).ownWait = false → (s.port p).restartWait = false →
    let c := { s.port p with hold := some (holdDeadline s.now (s.port p)) }
    (∀ a d, (s.port p).phase = .address → isPrefixAddress a = false →
      exec (.addressByte p a d) s = .next (s.setPort p (sevenBitJudged c a d))) ∧
    (∀ b, (s.port p).phase = .tenLow → exec (.lowByte p b) s = .next (s.setPort p (lowByteJudged c b))) ∧
    (∀ h, (s.port p).phase = .address → exec (.prefixWrite p h) s = .next (s.setPort p (prefixWriteJudged c h)))

/-- A prefix with read that continues the ten-bit memory: PROXY on the owned segment, a request where none is owned, NACK where
the snapshot does not allow reads (R60). One that does not continue it is refused with MISS (R61), the direction recorded all
the same (log 25); after a Start there is no memory. -/
def Obligations.PrefixReadContinuesTheMemoryOrIsRefused : Prop :=
  (∀ (s : State) (p : Port) (h : BitVec 2),
    PortOk (s.port p) → (s.port p).phase = .address → (s.port p).hold = none → (s.port p).ownWait = false →
    (s.port p).restartWait = false →
    let c := { s.port p with hold := some (holdDeadline s.now (s.port p)) }
    (∀ m b g w a, c.tenBit = some m → m.addr.extractLsb' 8 2 = h → c.bound = some b → b.snap.dest = .segment g w a →
      (b.snap.access ≠ .write → exec (.prefixRead p h) s = .next (s.setPort p (prefixReadContinued c g w a))) ∧
      (b.snap.access = .write → exec (.prefixRead p h) s = .next (s.setPort p (prefixReadRefused c)))) ∧
    ((∀ m, c.tenBit = some m → m.addr.extractLsb' 8 2 ≠ h) →
      exec (.prefixRead p h) s = .next ((s.setPort p (prefixReadRefused c)).raise (.miss p)))) ∧
  (∀ (s t : State) (p : Port), (s.port p).phase = .idle → (s.port p).hold = none →
    exec (.upstreamStart p) s = .next t → (t.port p).tenBit = none)

/-- While the interpreter wait is set an address byte is held, not judged; the completion of an execution clears its condition,
and the byte held, a 7-bit address, a prefix or a low byte, is judged in the event that leaves neither condition set: the
completion of the port's own execution, with a response not yet written written in that event (log 9), or that of the other
port's RESTART (R70, R72, R177, R186, R194). -/
def Obligations.InterpreterWaitHoldsTheAddressByte : Prop :=
  (∀ (s : State) (p : Port), (s.port p).hold = none → ((s.port p).ownWait || (s.port p).restartWait) = true →
    let keeping := fun b : Byte =>
      Host.Outcome.next (s.setPort p { s.port p with hold := some (holdDeadline s.now (s.port p)), held := some b })
    ((s.port p).phase = .address →
      (∀ a d, exec (.addressByte p a d) s = keeping (a ++ Segment.directionBit d)) ∧
      (∀ h, exec (.prefixWrite p h) s = keeping (0b11110#5 ++ h ++ 0#1)) ∧
      (∀ h, exec (.prefixRead p h) s = keeping (0b11110#5 ++ h ++ 1#1))) ∧
    ((s.port p).phase = .tenLow → ∀ b, exec (.lowByte p b) s = keeping b)) ∧
  (∀ (s u : State) (p : Port) (c : Instr), PortOk (s.port p) → takesCompletion s p c u →
    let q := { u.port p with held := none }
    ((u.port p).held = none ∨ (u.port p).ownWait = true ∨ (u.port p).restartWait = true → exec c s = .next u) ∧
    ((u.port p).ownWait = false → (u.port p).restartWait = false → q.phase = .address →
      (∀ a d, isPrefixAddress a = false → (u.port p).held = some (a ++ Segment.directionBit d) →
        exec c s = .next (u.setPort p (sevenBitJudged q a d))) ∧
      (∀ h, (u.port p).held = some (0b11110#5 ++ h ++ 0#1) → exec c s = .next (u.setPort p (prefixWriteJudged q h))) ∧
      (∀ h, (u.port p).held = some (0b11110#5 ++ h ++ 1#1) →
        (∀ m b g w a, q.tenBit = some m → m.addr.extractLsb' 8 2 = h → q.bound = some b → b.snap.dest = .segment g w a →
          (b.snap.access ≠ .write → exec c s = .next (u.setPort p (prefixReadContinued q g w a))) ∧
          (b.snap.access = .write → exec c s = .next (u.setPort p (prefixReadRefused q)))) ∧
        ((∀ m, q.tenBit = some m → m.addr.extractLsb' 8 2 ≠ h) →
          exec c s = .next ((u.setPort p (prefixReadRefused q)).raise (.miss p))))) ∧
    (∀ b, (u.port p).ownWait = false → (u.port p).restartWait = false → q.phase = .tenLow → (u.port p).held = some b →
      exec c s = .next (u.setPort p (lowByteJudged q b))))

/-! ### The table manager's answers (02) -/

/-- The winner of a lookup is the competing slot with the most fixed positions, and among those the one with the lowest index;
a slot competes when it is LIVE or QUARANTINED, of the width, lists the port, and its key equals the address at every fixed
position. In a sound table no two competing routes have the same mask (R28, R29). -/
def Obligations.LookupWinnerIsTheNarrowestCompetingRoute : Prop :=
  ∀ (s : State) (p : Port) (q : Query),
    let width := fun r : Record => match r.width with
      | .w7 => 7
      | .w10 => 10
    let competes := fun (k : SlotIx) (r : Record) =>
      ((s.slot k).state = .live ∨ (s.slot k).state = .quarantined) ∧ (s.slot k).record = some r ∧ r.width = q.width ∧
      r.ports.get p = true ∧ ∀ i, i < width r → r.mask.getLsbD i = true → q.addr.getLsbD i = r.key.getLsbD i
    let fixed := fun r : Record => ((List.range (width r)).filter fun i => r.mask.getLsbD i).length
    ((lookupWinner s.table p q = none ↔ ∀ k r, ¬ competes k r) ∧
     ∀ k, lookupWinner s.table p q = some k ↔
       ∃ r, competes k r ∧ ∀ j t, competes j t → fixed t < fixed r ∨ (fixed t = fixed r ∧ k ≤ j)) ∧
    (TableOk s → ∀ i j a b, i ≠ j → competes i a → competes j b → a.mask ≠ b.mask)

/-- The judgement of the winner: the first condition of R30's table that holds; every outcome but NO_MATCH names the winner.
In a sound table a QUARANTINED winner's target kind is SEGMENT. -/
def Obligations.LookupJudgementTakesTheFirstCondition : Prop :=
  ∀ (s : State) (p : Port) (q : Query),
    (lookupWinner s.table p q = none → s.lookupResult p q = (.noMatch, none)) ∧
    (∀ k r, lookupWinner s.table p q = some k → (s.slot k).record = some r →
      (s.lookupResult p q).2 = some (k, r) ∧
      (r.target = .deny → (s.lookupResult p q).1 = .deny) ∧
      (r.target ≠ .deny →
        ((r.access = .read ∧ q.dir = .write) ∨ (r.access = .write ∧ q.dir = .read) →
          (s.lookupResult p q).1 = .access) ∧
        (¬ ((r.access = .read ∧ q.dir = .write) ∨ (r.access = .write ∧ q.dir = .read)) →
          ((s.slot k).state = .quarantined → (s.lookupResult p q).1 = .quarantined) ∧
          ((s.slot k).state ≠ .quarantined →
            (∀ g w base, r.target = .segment g w base →
              ((s.seg g).state ∈ [SegState.disabled, .closing, .faulted] → (s.lookupResult p q).1 = .segmentDown) ∧
              ((s.seg g).state ∈ [SegState.clearing, .idle, .owned, .releasing] → (s.lookupResult p q).1 = .forward)) ∧
            (r.target = .localPart → (s.lookupResult p q).1 = .localPart)))) ∧
      (TableOk s → (s.slot k).state = .quarantined → ∃ g w base, r.target = .segment g w base))

/-- The translated address, bit by bit: inside the target width it takes the looked-up address's bit at each free position of
the match and the target base's bit at every other position; outside the target width it has no bit (R32). A valid record
neither matches nor produces a reserved 7-bit address: a 7-bit match set holds no address in 0x78..0x7F, every free position
of a SEGMENT route lies inside the target width, and no 7-bit translated address lies in 0x78..0x7F (R15). -/
def Obligations.AddressesAreTranslatedAndNeverReserved : Prop :=
  (∀ (r : Record) (w : Width) (base a : Addr) (i : Nat),
    let width := fun w : Width => match w with
      | .w7 => 7
      | .w10 => 10
    (width w ≤ i → (r.translate w base a).getLsbD i = false) ∧
    (i < width w → i < width r.width → r.mask.getLsbD i = false → (r.translate w base a).getLsbD i = a.getLsbD i) ∧
    (i < width w → (width r.width ≤ i ∨ r.mask.getLsbD i = true) →
      (r.translate w base a).getLsbD i = base.getLsbD i)) ∧
  (∀ (r : Record) (a : Addr), r.valid →
    (r.width = .w7 → a.toNat < 0x80 → r.covers a = true → a.toNat < 0x78) ∧
    (∀ g w base, r.target = .segment g w base →
      (w = .w7 → r.width = .w10 → r.mask.getLsbD 7 = true ∧ r.mask.getLsbD 8 = true ∧ r.mask.getLsbD 9 = true) ∧
      (w = .w7 → r.covers a = true → (r.translate w base a).toNat < 0x78)))

/-- A lookup taken at the table manager, when the port has taken its earlier outcomes (log 29): NO_MATCH raises MISS; every
other outcome carries the winning slot and its generation (R30, R33); a refusing one binds nothing; LOCAL and FORWARD bind the
winner in the same event, its in-flight count one more and its lease paused, and hand on the snapshot (R22, R26, R34). -/
def Obligations.LookupAnswersAndBinds : Prop :=
  ∀ (s : State) (p : Port) (q : Query) (rest : List TableMsg), (s.port p).toTable = .lookup q :: rest →
    (s.port p).fromTable = [] →
    let c := s.port p
    ((s.lookupResult p q).1 = .noMatch →
      exec (.lookup p) s =
        .next ((s.setPort p { c with toTable := rest, fromTable := [.lookup q .noMatch none none] }).raise (.miss p))) ∧
    (∀ v ∈ [Verdict.deny, .access, .quarantined, .segmentDown], ∀ k r, s.lookupResult p q = (v, some (k, r)) →
      exec (.lookup p) s =
        .next (s.setPort p { c with toTable := rest, fromTable := [.lookup q v (some (k, (s.slot k).gen)) none] })) ∧
    (∀ k r g w base, s.lookupResult p q = (.forward, some (k, r)) → r.target = .segment g w base →
      exec (.lookup p) s =
        .next ((s.setSlot k { s.slot k with
            inflight := (s.slot k).inflight + 1, lease := leasePaused s.now (s.slot k).lease }).setPort p
          { c with
            toTable := rest,
            fromTable := [.lookup q .forward (some (k, (s.slot k).gen)) (some
              { slot := k, gen := (s.slot k).gen,
                snap := { dest := .segment g w (r.translate w base q.addr), access := r.access, limit := r.limit,
                          counted := r.counted } })] })) ∧
    (∀ k r, s.lookupResult p q = (.localPart, some (k, r)) → r.target = .localPart →
      exec (.lookup p) s =
        .next ((s.setSlot k { s.slot k with
            inflight := (s.slot k).inflight + 1, lease := leasePaused s.now (s.slot k).lease }).setPort p
          { c with
            toTable := rest,
            fromTable := [.lookup q .localPart (some (k, (s.slot k).gen)) (some
              { slot := k, gen := (s.slot k).gen,
                snap := { dest := .localPart, access := r.access, limit := r.limit, counted := r.counted } })] }))

/-- The prefix test: accepted exactly when some slot in service of width 10 that lists the port matches an address whose bits
9 and 8 are H; a refusal raises MISS (R35). -/
def Obligations.PrefixTestAcceptsAMatchableHighPart : Prop :=
  ∀ (s : State) (p : Port) (h : BitVec 2) (rest : List TableMsg), (s.port p).toTable = .prefixTest h :: rest →
    let c := s.port p
    let matchable := ∃ k r a, serves (s.slot k) ∧ (s.slot k).record = some r ∧ r.width = .w10 ∧ r.ports.get p = true ∧
      r.covers a = true ∧ a.extractLsb' 8 2 = h
    (matchable →
      exec (.prefixTest p) s =
        .next (s.setPort p { c with toTable := rest, fromTable := c.fromTable ++ [.prefixTest true] })) ∧
    (¬ matchable →
      exec (.prefixTest p) s =
        .next ((s.setPort p { c with
          toTable := rest, fromTable := c.fromTable ++ [.prefixTest false] }).raise (.miss p)))

/-! ### Outcomes at the port (3.4, 3.5) -/

/-- An awaited outcome that refuses the address phase, one that answers LOCAL, and the outcomes of a prefix test (R51, R52,
R58): the carried segment is released and a carried binding given up (R49). An outcome that is no longer awaited is not acted
on, and a binding it made is given up (R50), its unbind ahead of what the port has sent since (log 29). When the binding and
the direction are recorded are logs 7 and 25. -/
def Obligations.OutcomesAnswerTheAddressPhase : Prop :=
  (∀ (s : State) (p : Port) (rest : List TableReply),
    PortOk (s.port p) → (s.port p).awaiting = true → (s.port p).stale = 0 →
    let c := { s.port p with fromTable := rest, awaiting := false, hold := none }
    (∀ q v n, (s.port p).fromTable = .lookup q v n none :: rest →
      exec (.lookupOutcome p) s =
        .next (s.setPort p { c.ended .unaddressed with direction := some q.dir, lastAnswer := some .nack })) ∧
    (∀ q v n b, (s.port p).fromTable = .lookup q v n (some b) :: rest → b.snap.dest = .localPart → q.dir = .write →
      exec (.lookupOutcome p) s =
        .next (s.setPort p { c.ended .command with
          bound := some b, direction := some .write, lastAnswer := some .ack, frame := [], overflow := false })) ∧
    (∀ q v n b, (s.port p).fromTable = .lookup q v n (some b) :: rest → b.snap.dest = .localPart → q.dir = .read →
      exec (.lookupOutcome p) s =
        .next (s.setPort p { c.ended .response with
          bound := some b, direction := some .read, lastAnswer := some .ack, count := 0 })) ∧
    ((s.port p).fromTable = .prefixTest true :: rest →
      exec (.prefixOutcome p) s =
        .next (s.setPort p { c with phase := .tenLow, lastAnswer := some .ack, fetched := none, shown := false })) ∧
    ((s.port p).fromTable = .prefixTest false :: rest →
      exec (.prefixOutcome p) s = .next (s.setPort p { c.ended .unaddressed with lastAnswer := some .nack }))) ∧
  (∀ (s : State) (p : Port) (rest : List TableReply), (s.port p).stale ≠ 0 ∨ (s.port p).awaiting = false →
    (∀ q v n b, (s.port p).fromTable = .lookup q v n b :: rest →
      exec (.lookupOutcome p) s =
        .next (s.setPort p { s.port p with
          fromTable := rest, stale := (s.port p).stale - 1, toTable := unbindSent b ++ (s.port p).toTable })) ∧
    (∀ a, (s.port p).fromTable = .prefixTest a :: rest →
      exec (.prefixOutcome p) s =
        .next (s.setPort p { s.port p with fromTable := rest, stale := (s.port p).stale - 1 })))

/-- An awaited FORWARD outcome: the owned segment that the route names is kept and asked for the address at once (R56); any
other owned segment is released before the route's segment is requested (R53). The binding is recorded, with the ten-bit
memory for a 10-bit address (R50, R57; log 7), and the hold goes on. -/
def Obligations.ForwardOutcomeKeepsOrRequestsTheSegment : Prop :=
  ∀ (s : State) (p : Port) (rest : List TableReply) (q : Query) (v : Verdict)
    (n : Option (SlotIx × BitVec 8)) (b : Binding) (g : SegIx) (w : Width) (a : Addr),
    PortOk (s.port p) → (s.port p).awaiting = true → (s.port p).stale = 0 →
    (s.port p).fromTable = .lookup q v n (some b) :: rest → b.snap.dest = .segment g w a →
    let memory : Option TenBit := match q.width with
      | .w7 => none
      | .w10 => some { slot := b.slot, gen := b.gen, addr := q.addr }
    let c := { (s.port p).ended .address with
      fromTable := rest, awaiting := false, direction := some q.dir, bound := some b, tenBit := memory }
    ((s.port p).link = .owned g →
      exec (.lookupOutcome p) s =
        .next (s.setPort p { c with
          phase := .proxy, link := .owned g, toSegments := (s.port p).toSegments ++ [(g, .ask (.address w a q.dir))] })) ∧
    ((s.port p).link ≠ .owned g →
      exec (.lookupOutcome p) s =
        .next (s.setPort p { c with
          phase := .waitGrant, link := .queued g, requests := (s.port p).requests + 1,
          toSegments := (s.port p).toSegments ++ releaseSent (s.port p).link ++
            [(g, .request ((s.port p).requests + 1))] }))

/-! ### Reports, unbinds and expiries at the table manager (1.5, 4.2, 6.6, 7.1, 7.3) -/

/-- An unbind at its slot (R23): without effect on a FREE or STAGED slot or under another generation; else one from the
in-flight count, the lease reloaded when an in-service slot reaches 0, a DRAINING slot freed with ROUTE_DRAINED. -/
def Obligations.UnbindLowersTheInFlightCount : Prop :=
  ∀ (s : State) (p : Port) (k : SlotIx) (gen : BitVec 8) (rest : List TableMsg),
    (s.port p).toTable = .unbind k gen :: rest →
    let c := { s.port p with toTable := rest }
    ((s.slot k).gen ≠ gen ∨ (s.slot k).state = .free ∨ (s.slot k).state = .staged →
      exec (.unbind p) s = .next (s.setPort p c)) ∧
    (∀ n, (s.slot k).gen = gen → (s.slot k).inflight = n + 2 → serves (s.slot k) ∨ (s.slot k).state = .draining →
      exec (.unbind p) s = .next ((s.setSlot k { s.slot k with inflight := n + 1 }).setPort p c)) ∧
    (∀ r, (s.slot k).gen = gen → (s.slot k).inflight = 1 → serves (s.slot k) → (s.slot k).record = some r →
      exec (.unbind p) s =
        .next ((s.setSlot k { s.slot k with
          inflight := 0, lease := freshLease s.now r 0 (s.slot k).lease }).setPort p c)) ∧
    ((s.slot k).gen = gen → (s.slot k).inflight = 1 → (s.slot k).state = .draining →
      exec (.unbind p) s =
        .next (((s.setSlot k
          { state := .free, record := none, mark := false, gen := gen, inflight := 0, strikes := 0,
            lease := .none }).setPort p c).raise (.routeDrained k)))

/-- An acceptance report clears the strikes of a LIVE slot and reloads the lease of an in-service one; a refusal report strikes
a LIVE slot with a threshold and quarantines it with ROUTE_QUARANTINED at the threshold; every other report has no effect
(R80, R165, R166, R167). -/
def Obligations.ReportsCountStrikesAndReloadLeases : Prop :=
  ∀ (s : State) (p : Port) (k : SlotIx) (gen : BitVec 8) (rest : List TableMsg) (r : Record),
    let x := s.slot k
    let c := { s.port p with toTable := rest }
    ((s.port p).toTable = .acceptance k gen :: rest →
      (x.gen = gen → x.state = .live → x.record = some r →
        exec (.acceptanceReport p) s =
          .next ((s.setSlot k { x with strikes := 0, lease := freshLease s.now r x.inflight x.lease }).setPort p c)) ∧
      (x.gen = gen → x.state = .quarantined → x.record = some r →
        exec (.acceptanceReport p) s =
          .next ((s.setSlot k { x with lease := freshLease s.now r x.inflight x.lease }).setPort p c)) ∧
      (x.gen ≠ gen ∨ ¬ serves x → exec (.acceptanceReport p) s = .next (s.setPort p c))) ∧
    ((s.port p).toTable = .refusal k gen :: rest →
      (∀ t, x.gen = gen → x.state = .live → x.record = some r → r.threshold = some t → x.strikes + 1 ≠ t.toNat →
        exec (.refusalReport p) s = .next ((s.setSlot k { x with strikes := x.strikes + 1 }).setPort p c)) ∧
      (∀ t, x.gen = gen → x.state = .live → x.record = some r → r.threshold = some t → x.strikes + 1 = t.toNat →
        exec (.refusalReport p) s =
          .next (((s.setSlot k { x with strikes := t.toNat, state := .quarantined }).setPort p c).raise
            (.routeQuarantined k))) ∧
      (x.gen = gen → x.state = .live → x.record = some r → r.threshold = none →
        exec (.refusalReport p) s = .next (s.setPort p c)) ∧
      (x.gen ≠ gen ∨ x.state ≠ .live → exec (.refusalReport p) s = .next (s.setPort p c)))

/-- A lease that runs out frees its slot, its generation kept, with ROUTE_EXPIRED (R160); the idle expiry does what a passing
ABANDON does and raises CHANGESET_EXPIRED with the former owner, and a change set without a deadline does not expire (R150).
The moment is the end of the lease, or the deadline (log 4). -/
def Obligations.LeaseAndIdleExpiries : Prop :=
  (∀ (s : State) (k : SlotIx) (t : Nat), serves (s.slot k) → (s.slot k).lease = .running t →
    exec (.leaseExpiry k) s =
      .next (({ s with now := max s.now t }.setSlot k
        { state := .free, record := none, mark := false, gen := (s.slot k).gen, inflight := 0, strikes := 0,
          lease := .none }).raise (.routeExpired k))) ∧
  (∀ (s : State) (o : Port) (t : Nat), s.changeSet = .opened o (some t) →
    exec .idleExpiry s =
      .next ({ s with
        now := max s.now t, changeSet := .empty,
        table := s.table.map fun (x : Slot) =>
          if x.state = SlotState.staged then
            { state := .free, record := none, mark := false, gen := x.gen, inflight := 0, strikes := 0, lease := .none }
          else { x with mark := false } }.raise (.changesetExpired o))) ∧
  (∀ (s : State) (o : Port), s.changeSet = .opened o none → exec .idleExpiry s = .next s)

/-- A hold expiry answers the host, gives up the phase's segment and the binding, goes to ABSORB and raises HOLD_TIMEOUT (R66);
an outcome then under way is no longer awaited (R50). The moment is the hold's deadline (log 4). -/
def Obligations.HoldExpiryAnswersAndAbsorbs : Prop :=
  ∀ (s : State) (p : Port) (t : Nat), (s.port p).hold = some t →
    exec (.holdExpiry p) s =
      .next (({ s with now := max s.now t }.setPort p { (s.port p).ended .absorb with
        hold := none, held := none, awaiting := false,
        stale := if (s.port p).awaiting then (s.port p).stale + 1 else (s.port p).stale,
        lastAnswer := some (if (s.port p).phase = Phase.read then Answer.byte 0xFF#8 else Answer.nack),
        toSegments := (s.port p).toSegments ++ leaveSent (s.port p).link }).raise (.holdTimeout p))

/-! ### Data bytes at the port (3.6, 3.8, 4.3, 4.4) -/

/-- A byte in COMMAND: the first sixteen are collected and answered ACK, a later one is answered NACK, not kept, and sets the
overflow flag; a LOCAL record carries no byte limit and no counted mode (R69). -/
def Obligations.CommandBytesAreCollected : Prop :=
  (∀ (s : State) (p : Port) (b : Byte), PortOk (s.port p) → (s.port p).phase = .command →
    ((s.port p).frame.length < 16 →
      exec (.commandByte p b) s =
        .next (s.setPort p { s.port p with frame := (s.port p).frame ++ [b], lastAnswer := some .ack })) ∧
    ((s.port p).frame.length = 16 →
      exec (.commandByte p b) s =
        .next (s.setPort p { s.port p with overflow := true, lastAnswer := some .nack }))) ∧
  (∀ r : Record, r.valid → r.target = .localPart → r.limit = none ∧ r.counted = false)

/-- A byte read in RESPONSE comes from the port's own buffer at the data byte count, 0xFF past its end, and leaves the buffer
unchanged (R71, R175); a byte in ABSORB is answered NACK or 0xFF (R63), a byte in ENDING 0xFF (R64). -/
def Obligations.BytesAnsweredWithoutASegment : Prop :=
  ∀ (s : State) (p : Port), PortOk (s.port p) →
    (∀ b, (s.port p).phase = .response → (s.interpOf p).buffer[(s.port p).count]? = some b →
      exec (.responseByte p) s =
        .next (s.setPort p { s.port p with lastAnswer := some (.byte b), count := min 256 ((s.port p).count + 1) })) ∧
    ((s.port p).phase = .response → (s.interpOf p).buffer.length ≤ (s.port p).count →
      exec (.responseByte p) s =
        .next (s.setPort p { s.port p with
          lastAnswer := some (.byte 0xFF#8), count := min 256 ((s.port p).count + 1) })) ∧
    ((s.port p).phase = .absorb →
      exec (.absorbByte p .write) s = .next (s.setPort p { s.port p with lastAnswer := some .nack }) ∧
      exec (.absorbByte p .read) s = .next (s.setPort p { s.port p with lastAnswer := some (.byte 0xFF#8) })) ∧
    ((s.port p).phase = .ending →
      exec (.endingByte p) s = .next (s.setPort p { s.port p with lastAnswer := some (.byte 0xFF#8) }))

/-- A write byte in WRITE: a declared length taken or refused (R82), a byte forwarded under a new hold (R81), a byte past the
limit or the declared length refused (R83, R84). -/
def Obligations.WriteBytesAreForwardedWithinTheLimits : Prop :=
  ∀ (s : State) (p : Port) (b : Byte) (bd : Binding) (g : SegIx),
    (s.port p).phase = .write → (s.port p).hold = none → (s.port p).bound = some bd → (s.port p).link = .owned g →
    let c := s.port p
    (bd.snap.counted = true → c.declared = none → b ≠ 0#8 → allowsBytes bd.snap.limit b.toNat →
      exec (.writeDataByte p b) s = .next (s.setPort p { c with declared := some b, lastAnswer := some .ack })) ∧
    (bd.snap.counted = true → c.declared = none → (b = 0#8 ∨ ¬ allowsBytes bd.snap.limit b.toNat) →
      exec (.writeDataByte p b) s = .next (s.setPort p { c.ended .absorb with lastAnswer := some .nack })) ∧
    (bd.snap.counted = false ∨ c.declared ≠ none →
      (allowsBytes bd.snap.limit (c.count + 1) → allowsBytes c.declared (c.count + 1) →
        exec (.writeDataByte p b) s =
          .next (s.setPort p { c with
            hold := some (holdDeadline s.now c), count := min 256 (c.count + 1),
            toSegments := c.toSegments ++ [(g, .ask (.writeByte b))] })) ∧
      (¬ allowsBytes bd.snap.limit (c.count + 1) ∨ ¬ allowsBytes c.declared (c.count + 1) →
        exec (.writeDataByte p b) s = .next (s.setPort p { c.ended .absorb with lastAnswer := some .nack })))

/-- The host clocks a read byte in READ: a fetched byte is shifted out, else the port holds SCL (R88); the host's answer is
mirrored downstream, and a read at its byte limit is ended in place of the host (R89, R90). -/
def Obligations.ReadBytesAreShiftedOutAndAcknowledged : Prop :=
  ∀ (s : State) (p : Port) (bd : Binding) (g : SegIx),
    (s.port p).phase = .read → (s.port p).hold = none → (s.port p).bound = some bd → (s.port p).link = .owned g →
    let c := s.port p
    (∀ b, c.shown = false → c.fetched = some b →
      exec (.readDataByte p) s = .next (s.setPort p { c with shown := true, lastAnswer := some (.byte b) })) ∧
    (c.fetched = none →
      exec (.readDataByte p) s = .next (s.setPort p { c with hold := some (holdDeadline s.now c) })) ∧
    (c.shown = true → allowsBytes bd.snap.limit (c.count + 1) →
      exec (.hostAcknowledge p true) s =
        .next (s.setPort p { c with
          fetched := none, shown := false, count := min 256 (c.count + 1),
          toSegments := c.toSegments ++ [(g, .ask (.ackBit true)), (g, .ask .readByte)] })) ∧
    (c.shown = true → ¬ allowsBytes bd.snap.limit (c.count + 1) →
      exec (.hostAcknowledge p true) s =
        .next (s.setPort p { c.ended .absorb with
          toSegments := c.toSegments ++ [(g, .ask (.ackBit false)), (g, .release)] })) ∧
    (c.shown = true →
      exec (.hostAcknowledge p false) s =
        .next (s.setPort p { c with
          phase := .ending, fetched := none, shown := false,
          toSegments := c.toSegments ++ [(g, .ask (.ackBit false))] }))

/-! ### Grants and results at the port (3.4, 4.1 to 4.5) -/

/-- A grant of the port's latest request, taken in WAIT_GRANT for the queued segment, makes the context its owner and asks
ADDRESS (R54); a refusal of it ends the address phase (R55); each is discarded otherwise, that of a withdrawn or cancelled
request among them (R67, R104). The number that tells a request from an earlier one is the MODEL's (log 19). -/
def Obligations.GrantsAndRefusalsAreTaken : Prop :=
  ∀ (s : State) (p : Port) (g : SegIx) (n : Nat) (rest : List (SegIx × PortMsg)),
    let c := { s.port p with fromSegments := rest }
    (firstMessage (s.port p) g (.grant n) rest →
      (∀ b d h w a, c.phase = .waitGrant → c.link = .queued g → n = c.requests → c.bound = some b → c.direction = some d →
        b.snap.dest = .segment h w a →
        exec (.grantTaken p g) s =
          .next (s.setPort p { c with
            link := .owned g, phase := .proxy, fetched := none, shown := false,
            toSegments := c.toSegments ++ [(g, .ask (.address w a d))] })) ∧
      (c.phase ≠ .waitGrant ∨ c.link ≠ .queued g ∨ n ≠ c.requests → exec (.grantTaken p g) s = .next (s.setPort p c))) ∧
    (firstMessage (s.port p) g (.refusal n) rest →
      (c.phase = .waitGrant → c.link = .queued g → n = c.requests →
        exec (.refusalTaken p g) s =
          .next (s.setPort p { c.ended .unaddressed with hold := none, lastAnswer := some .nack })) ∧
      (c.phase ≠ .waitGrant ∨ c.link ≠ .queued g ∨ n ≠ c.requests → exec (.refusalTaken p g) s = .next (s.setPort p c)))

/-- An ADDRESS result in PROXY: ACK is reported and answered ACK, and a read asks its first byte (R77, R87); NACK is reported
before the unbind and answered NACK, and the segment released (R78). -/
def Obligations.AddressResultsAreMirrored : Prop :=
  ∀ (s : State) (p : Port) (g : SegIx) (rest : List (SegIx × PortMsg)) (b : Binding),
    (s.port p).phase = .proxy → (s.port p).link = .owned g → (s.port p).bound = some b →
    let c := { s.port p with fromSegments := rest, hold := none, fetched := none, shown := false }
    (firstMessage (s.port p) g (.addressResult true) rest →
      (c.direction = some .write →
        exec (.addressAck p g) s =
          .next (s.setPort p { c with
            phase := .write, count := 0, lastAnswer := some .ack,
            toTable := c.toTable ++ [.acceptance b.slot b.gen] })) ∧
      (c.direction = some .read →
        exec (.addressAck p g) s =
          .next (s.setPort p { c with
            phase := .read, count := 1, lastAnswer := some .ack, toTable := c.toTable ++ [.acceptance b.slot b.gen],
            toSegments := c.toSegments ++ [(g, .ask .readByte)] }))) ∧
    (firstMessage (s.port p) g (.addressResult false) rest →
      exec (.addressNack p g) s =
        .next (s.setPort p { c.ended .unaddressed with
          lastAnswer := some .nack,
          toTable := c.toTable ++ [.refusal b.slot b.gen, .unbind b.slot b.gen] }))

/-- A WRITE_BYTE result in WRITE is the client's answer, and a NACK ends the write (R85); a READ_BYTE result in READ is shifted
out to a held host or kept (R88), and discarded in another phase; the Done of ACK_BIT changes nothing (R75). -/
def Obligations.DataResultsAreMirrored : Prop :=
  ∀ (s : State) (p : Port) (g : SegIx) (rest : List (SegIx × PortMsg)), (s.port p).link = .owned g →
    let c := { s.port p with fromSegments := rest }
    (c.phase = .write → firstMessage (s.port p) g (.writeResult true) rest →
      exec (.writeByteResult p g) s = .next (s.setPort p { c with hold := none, lastAnswer := some .ack })) ∧
    (c.phase = .write → firstMessage (s.port p) g (.writeResult false) rest →
      exec (.writeByteResult p g) s =
        .next (s.setPort p { c.ended .absorb with hold := none, lastAnswer := some .nack })) ∧
    (∀ b t, firstMessage (s.port p) g (.readResult b) rest → c.phase = .read → c.hold = some t →
      exec (.readByteResult p g) s =
        .next (s.setPort p { c with
          hold := none, fetched := some b, shown := true, lastAnswer := some (.byte b) })) ∧
    (∀ b, firstMessage (s.port p) g (.readResult b) rest → c.phase = .read → c.hold = none →
      exec (.readByteResult p g) s = .next (s.setPort p { c with fetched := some b, shown := false })) ∧
    (∀ b, firstMessage (s.port p) g (.readResult b) rest → c.phase ≠ .read →
      exec (.readByteResult p g) s = .next (s.setPort p c)) ∧
    (firstMessage (s.port p) g .ackBitDone rest → exec (.ackBitDone p g) s = .next (s.setPort p c))

/-- LOST, FAULT and CANCELLED end the ownership without a release (R76): NACK and UNADDRESSED in PROXY (R79); the part's own
answer to a held host and ABSORB in WRITE, READ and ENDING (R86, R91); only the link is lost while a segment is carried (R93).
Any result from a segment that the context does not own is discarded (R75). -/
def Obligations.EndingResultsEndTheOwnershipAndStrayResultsAreDiscarded : Prop :=
  (∀ (s : State) (p : Port) (g : SegIx) (rest : List (SegIx × PortMsg)), (s.port p).link = .owned g →
    ∀ e ∈ [(Instr.lost p g, PortMsg.lost), (.fault p g, .fault), (.cancelled p g, .cancelled)],
      firstMessage (s.port p) g e.2 rest →
      let c := { s.port p with fromSegments := rest, link := .none }
      (c.phase = .proxy →
        exec e.1 s =
          .next (s.setPort p { c.ended .unaddressed with hold := none, lastAnswer := some .nack })) ∧
      (c.phase = .write ∨ c.phase = .ending →
        exec e.1 s =
          .next (s.setPort p { c.ended .absorb with
            hold := none, lastAnswer := if c.hold = none then c.lastAnswer else some .nack })) ∧
      (c.phase = .read →
        exec e.1 s =
          .next (s.setPort p { c.ended .absorb with
            hold := none, lastAnswer := if c.hold = none then c.lastAnswer else some (.byte 0xFF#8) })) ∧
      (c.phase = .address ∨ c.phase = .tenLow → exec e.1 s = .next (s.setPort p c))) ∧
  (∀ (s : State) (p : Port) (g : SegIx) (rest : List (SegIx × PortMsg)), (s.port p).link ≠ .owned g →
    let c := { s.port p with fromSegments := rest }
    ∀ b, ∀ e ∈ [(Instr.addressAck p g, PortMsg.addressResult true), (.addressNack p g, .addressResult false),
        (.writeByteResult p g, .writeResult true), (.writeByteResult p g, .writeResult false),
        (.readByteResult p g, .readResult b), (.ackBitDone p g, .ackBitDone), (.lost p g, .lost), (.fault p g, .fault),
        (.cancelled p g, .cancelled)],
      firstMessage (s.port p) g e.2 rest → exec e.1 s = .next (s.setPort p c))

/-! ### Segments (05) -/

/-- A request: granted at once in IDLE, queued in OWNED, RELEASING and CLEARING, refused in DISABLED, CLOSING and FAULTED
(R101). Its number stays with the segment for the grant or refusal that will answer it (log 19). -/
def Obligations.SegmentRequestsAreGrantedQueuedOrRefused : Prop :=
  ∀ (s : State) (p : Port) (g : SegIx) (n : Nat) (rest : List (SegIx × SegMsg)), timerOk (s.seg g) →
    (s.port p).toSegments = (g, .request n) :: rest →
    let x := s.seg g
    let c := { s.port p with toSegments := rest }
    (x.state = .idle →
      exec (.segmentRequest p) s =
        .next ((s.setSeg g (clocked s.now { x with
            state := .owned, owner := some p, asks := [], stage := .none, retries := 0,
            tickets := x.tickets.set p n })).setPort p
          { c with fromSegments := c.fromSegments ++ [(g, .grant n)] })) ∧
    (x.state ∈ [SegState.owned, .releasing, .clearing] →
      exec (.segmentRequest p) s =
        .next ((s.setSeg g { x with queue := x.queue ++ [p], tickets := x.tickets.set p n }).setPort p c)) ∧
    (x.state ∈ [SegState.disabled, .closing, .faulted] →
      exec (.segmentRequest p) s = .next (s.setPort p { c with fromSegments := c.fromSegments ++ [(g, .refusal n)] }))

/-- A withdrawal removes the port's queue entry, or is taken as a release of the owner; a release of the owner ends the
ownership; an ask of the owner joins its ask list; from any other port each has no effect (R103, R107, R117). -/
def Obligations.WithdrawalsReleasesAndAsksAreTaken : Prop :=
  ∀ (s : State) (p : Port) (g : SegIx) (rest : List (SegIx × SegMsg)), SegmentOk (s.seg g) → timerOk (s.seg g) →
    let x := s.seg g
    let d := s.setPort p { s.port p with toSegments := rest }
    ((s.port p).toSegments = (g, .release) :: rest →
      (x.owner = some p → ∀ y sends, releasedBy x y sends →
        exec (.release p) s = .next ((d.setSeg g (clocked s.now y)).deliver g sends)) ∧
      (x.owner ≠ some p → exec (.release p) s = .next d)) ∧
    ((s.port p).toSegments = (g, .withdrawal) :: rest →
      (p ∈ x.queue → exec (.withdrawal p) s = .next (d.setSeg g { x with queue := x.queue.filter (· ≠ p) })) ∧
      (p ∉ x.queue → x.owner = some p → ∀ y sends, releasedBy x y sends →
        exec (.withdrawal p) s = .next ((d.setSeg g (clocked s.now y)).deliver g sends)) ∧
      (p ∉ x.queue → x.owner ≠ some p → exec (.withdrawal p) s = .next d)) ∧
    (∀ a, (s.port p).toSegments = (g, .ask a) :: rest →
      (x.owner = some p → x.asks = [] → exec (.ask p) s = .next (d.setSeg g (clocked s.now (beginsWith x [a])))) ∧
      (x.owner = some p → x.asks ≠ [] → exec (.ask p) s = .next (d.setSeg g { x with asks := x.asks ++ [a] })) ∧
      (x.owner ≠ some p → exec (.ask p) s = .next d))

/-- With both lines high, a waiting ADDRESS makes a Start at position NONE, once the bus has been free for one SCL period in
SOLE mode or for the bus-free periods in SHARED mode (R113; the clock is at that moment or past it, log 4), and winds down and
makes a Restart at any other position (R106, R108); while the latest sample has a line low it makes neither. One SCL period is
80, 20 or 8 oscillator periods (R105). An ADDRESS of a 10-bit read that has sent its first two bytes comes to the Restart inside
it (R105, R108): with both lines high it makes it; with a line low it waits, the clock-low timer running from that moment (R119),
and makes it once both are high. That this is START_CONDITION too is the model's choice (log 32). -/
def Obligations.WaitingAddressMakesItsStart : Prop :=
  ∀ (s : State) (g : SegIx),
    let x := s.seg g
    let period := match x.config.rate with
      | .standard => 80
      | .fast => 20
      | .fastPlus => 8
    let wait := match x.config.mode, x.config.busFree with
      | .sole, _ => period
      | .shared, .p4 => 4 * period
      | .shared, .p8 => 8 * period
      | .shared, .p16 => 16 * period
      | .shared, .p32 => 32 * period
    (x.stage = .waiting → x.dsclLow = false → x.dsdaLow = false →
      (x.position = .none →
        exec (.startCondition g) s =
          .next ({ s with now := max s.now (x.freeSince + wait) }.setSeg g
            { x with stage := .driving, position := .boundary, clockLow := none, driven := [.start] })) ∧
      (x.position ≠ .none →
        exec (.startCondition g) s =
          .next (s.setSeg g { x with
            stage := .driving, position := .boundary, clockLow := none, driven := woundDown x.position ++ [.restart] }))) ∧
    (x.stage ∈ [Stage.waiting, .toRestart] → x.dsclLow = true ∨ x.dsdaLow = true →
      exec (.startCondition g) s = .next s) ∧
    (∀ a rest, x.stage = .driving → x.asks = .address .w10 a .read :: rest →
      let twoBytes := (Segment.addressDrives .w10 a .read).take 2
      (x.dsclLow = false → x.dsdaLow = false →
        exec (.startCondition g) s =
          .next (s.setSeg g { x with stage := .restarted, clockLow := none, driven := twoBytes ++ [.restart] })) ∧
      (x.dsclLow = true ∨ x.dsdaLow = true →
        ∃ t, t = clocked s.now { x with stage := .toRestart, clockLow := none, driven := twoBytes } ∧
          exec (.startCondition g) s = .next (s.setSeg g t) ∧ (x.state = .owned → t.clockLow = some s.now))) ∧
    (x.stage = .toRestart → x.dsclLow = false → x.dsdaLow = false →
      exec (.startCondition g) s =
        .next (s.setSeg g { x with stage := .restarted, clockLow := none, driven := [.restart] }))

/-- The end of a primitive in progress (R108 to R111): its result goes to the owner in OWNED, and the next ask begins (R107);
without an owner the result is discarded in RELEASING (R117) and replaced by the pending CANCELLED in CLOSING (R118). An
ADDRESS still to make its Restart has made it, with both lines high (log 18), and so has one of a 10-bit read the Restart
before its last byte; what START_CONDITION has driven of it is not driven again (log 32). -/
def Obligations.PrimitivesEndWithTheirResults : Prop :=
  ∀ (s : State) (c : Instr) (g : SegIx) (a : Primitive) (rest : List Primitive) (pos : Position) (m : PortMsg)
    (d : List Drive), endOf c g a = some (pos, m, d) → (s.seg g).asks = a :: rest →
    let x := s.seg g
    (x.stage = .driving ∧ (endsAfterRestart c a → x.dsclLow = false ∧ x.dsdaLow = false) ∨
      (x.stage = .waiting ∧ x.position ≠ .none ∧ x.dsclLow = false ∧ x.dsdaLow = false ∧ ∃ w ad dir, a = .address w ad dir) ∨
      (x.stage = .toRestart ∧ x.dsclLow = false ∧ x.dsdaLow = false ∧ endsAfterRestart c a) ∨
      (x.stage = .restarted ∧ endsAfterRestart c a)) →
    let sent := match x.stage with
      | .waiting => woundDown x.position ++ [.restart] ++ d
      | .toRestart => d.drop 2
      | .restarted => d.drop 3
      | .none | .driving => d
    (∀ o, x.state = .owned → x.owner = some o →
      exec c s =
        .next ((s.setSeg g (clocked s.now
            (beginsWith { x with position := pos, clockLow := none, driven := sent } rest))).setPort o
          { s.port o with fromSegments := (s.port o).fromSegments ++ [(g, m)] })) ∧
    (x.state = .releasing → rest = [] →
      exec c s =
        .next (s.setSeg g (clocked s.now { x with
          asks := [], stage := .none, position := pos, clockLow := none, driven := sent }))) ∧
    (x.state = .closing → rest = [] →
      exec c s =
        .next ((s.setSeg g (clocked s.now { x with
          asks := [], stage := .none, position := pos, clockLow := none, pendingCancel := none, driven := sent })).deliver g
          (sentTo x.pendingCancel .cancelled)))

/-- The segment's own STOP ends, after the wind-down: RELEASING enters IDLE and grants its queue's head, CLOSING enters DISABLED
(R112, R117, R118). The controller pulls DSCL low in a STOP, so no clock-low condition lasts through it (R105, R119). -/
def Obligations.StopEndsReleasingAndClosing : Prop :=
  ∀ (s : State) (g : SegIx), (s.seg g).asks = [] →
    let x := { s.seg g with
      freeSince := s.now, clockLow := none, driven := woundDown (s.seg g).position ++ [.stop] }
    (x.state = .releasing →
      exec (.stopEnd g) s = .next ((s.setSeg g (clocked s.now (idleOrGranted x))).deliver g (grantOnIdle x))) ∧
    (x.state = .closing →
      exec (.stopEnd g) s = .next ((s.setSeg g (disabledAfter x)).deliver g (sentTo x.pendingCancel .cancelled)))

/-- An arbitration loss in SHARED mode: ADDRESS is begun again until its retries reach the limit and then ends in LOST (R115);
any other primitive ends in LOST at once, RELEASING enters IDLE and CLOSING enters DISABLED (R116); in SOLE mode there is
none (R114). -/
def Obligations.ArbitrationLossesAreTaken : Prop :=
  ∀ (s : State) (g : SegIx), timerOk (s.seg g) →
    let x := { s.seg g with freeSince := s.now, driven := [] }
    let idle := clocked s.now (idleOrGranted x)
    ((s.seg g).config.mode = .shared →
      (∀ o w a d rest, x.state = .owned → x.owner = some o → x.asks = .address w a d :: rest → drives x →
        (x.retries < x.config.retryLimit.toNat →
          exec (.arbitrationLossAddress g) s =
            .next (s.setSeg g (clocked s.now { x with
              stage := .waiting, position := .none, retries := x.retries + 1 }))) ∧
        (x.config.retryLimit.toNat ≤ x.retries →
          exec (.arbitrationLossAddress g) s =
            .next ((s.setSeg g idle).deliver g ((o, .lost) :: grantOnIdle x)))) ∧
      (∀ o a rest, x.state = .owned → x.owner = some o → x.asks = a :: rest → (∀ w ad d, a ≠ .address w ad d) → drives x →
        exec (.arbitrationLoss g) s = .next ((s.setSeg g idle).deliver g ((o, .lost) :: grantOnIdle x))) ∧
      (x.state = .releasing →
        exec (.arbitrationLoss g) s = .next ((s.setSeg g idle).deliver g (grantOnIdle x))) ∧
      (x.state = .closing →
        exec (.arbitrationLoss g) s =
          .next ((s.setSeg g (disabledAfter x)).deliver g (sentTo x.pendingCancel .cancelled)))) ∧
    ((s.seg g).config.mode = .sole →
      exec (.arbitrationLossAddress g) s = .next s ∧ exec (.arbitrationLoss g) s = .next s)

/-- The clock-low timer, running since `t`, expires: FAULT to the owner and CLEARING in OWNED, CLEARING in IDLE and RELEASING, a
failed attempt in CLEARING, DISABLED in CLOSING (R120, R122). A stopped timer does not expire, and it is stopped in DISABLED
and FAULTED and while the controller itself holds DSCL low (R119). The moment is the timeout after the timer's start, in ms of
8000 oscillator periods (logs 4 and 12). -/
def Obligations.ClockLowExpiryActsByState : Prop :=
  ∀ (s : State) (g : SegIx),
    let x := { s.seg g with driven := [] }
    (∀ t, x.clockLow = some t →
      let u := { s with now := max s.now (t + x.config.timeout.toNat * 8000) }
      let cleared := clocked u.now (clearingFrom x)
      (∀ o, x.state = .owned → x.owner = some o → x.position = .none ∨ x.stage ≠ .none →
        exec (.clockLowExpiry g) s = .next ((u.setSeg g cleared).deliver g [(o, .fault)])) ∧
      (x.state = .idle ∨ x.state = .releasing → exec (.clockLowExpiry g) s = .next (u.setSeg g cleared)) ∧
      (x.state = .clearing → x.attempts < 3 →
        exec (.clockLowExpiry g) s =
          .next (u.setSeg g (clocked u.now { x with attempts := x.attempts + 1, clockLow := none }))) ∧
      (x.state = .clearing → 3 ≤ x.attempts →
        exec (.clockLowExpiry g) s =
          .next (((u.setSeg g { disabledAfter x with state := .faulted, queue := [] }).deliver g
            (refusalsOf x)).raise (.segmentFault g))) ∧
      (x.state = .closing →
        exec (.clockLowExpiry g) s =
          .next ((u.setSeg g (disabledAfter x)).deliver g (sentTo x.pendingCancel .cancelled)))) ∧
    (x.clockLow = none ∨ (timerOk (s.seg g) ∧
        (x.state = .disabled ∨ x.state = .faulted ∨ (x.state = .owned ∧ x.position ≠ .none ∧ x.stage = .none))) →
      exec (.clockLowExpiry g) s = .next s)

/-- The check after an attempt of the bus clear samples both lines: with both high the segment enters IDLE with
SEGMENT_CLEARED, the bus-free count running from the check (log 30); else the attempt fails, and the third failure leaves it
FAULTED with SEGMENT_FAULT and its queue refused (R121, R122). -/
def Obligations.ClearCheckEndsOrRepeatsTheBusClear : Prop :=
  ∀ (s : State) (g : SegIx) (dscl dsda : Bool), (s.seg g).state = .clearing →
    let x := { s.seg g with dsclLow := !dscl, dsdaLow := !dsda, driven := [.clearPulses, .stop] }
    (dscl = true → dsda = true →
      exec (.clearCheck g dscl dsda) s =
        .next (((s.setSeg g (clocked s.now (idleOrGranted { x with freeSince := s.now }))).deliver g (grantOnIdle x)).raise
          (.segmentCleared g))) ∧
    (dscl = false ∨ dsda = false → x.attempts < 3 →
      exec (.clearCheck g dscl dsda) s =
        .next (s.setSeg g (clocked s.now { x with attempts := x.attempts + 1, clockLow := none }))) ∧
    (dscl = false ∨ dsda = false → 3 ≤ x.attempts →
      exec (.clearCheck g dscl dsda) s =
        .next (((s.setSeg g { disabledAfter x with state := .faulted, queue := [] }).deliver g
          (refusalsOf x)).raise (.segmentFault g)))

/-! ### The command interpreter (08, 10) -/

/-- A frame handed over is judged as a whole, then by its fields; one that passes becomes the port's execution, and a RESTART
sets the other port's wait (R72, R177 to R179). It is taken behind the port's earlier messages to the table manager (log 8). -/
def Obligations.HandedOverFramesAreJudged : Prop :=
  ∀ (s : State) (p : Port) (f : Frame), (s.port p).handedOver = some f → (s.port p).toTable = [] →
    (s.interpOf p).execution = none →
    let d := s.setPort p { s.port p with handedOver := none }
    (f.overflow = true → exec (.handOver p) s = .next (d.reply p .atOnce (.done .badFrame []))) ∧
    (∀ code payload, f.overflow = false → f.bytes = code :: payload →
      (codeOf code = none → exec (.handOver p) s = .next (d.reply p .atOnce (.done .unknown []))) ∧
      (∀ n k, codeOf code = some (n, k) →
        (f.bytes.length ≠ n → exec (.handOver p) s = .next (d.reply p .atOnce (.done .badFrame []))) ∧
        (∀ st, f.bytes.length = n → commandOf k payload = .error st →
          exec (.handOver p) s = .next (d.reply p .atOnce (.done st []))) ∧
        (∀ c, f.bytes.length = n → commandOf k payload = .ok c → c ≠ .restart →
          exec (.handOver p) s =
            .next (d.setInterp p { s.interpOf p with execution := some { frame := f, progress := .passed c } })) ∧
        (f.bytes.length = n → commandOf k payload = .ok .restart →
          exec (.handOver p) s =
            .next ((d.setInterp p { s.interpOf p with
              execution := some { frame := f, progress := .passed .restart } }).setPort (otherPort p)
              { s.port (otherPort p) with restartWait := true, restartDone := false }))))

/-- The fields of a frame are read at their places and judged by the interpreter: a slot above 63 is BAD_SLOT, every other
field out of range is BAD_VALUE, and a code outside the table is UNKNOWN (R178, R179, R208, R210). Of SEGMENT_CONFIG, each
value byte whose field the selection byte names is judged and read, and no other (R188). -/
def Obligations.FrameFieldsAreReadAndJudged : Prop :=
  let judged := fun bytes : List Byte => judgeFrame { bytes := bytes, overflow := false }
  (∀ (k gen : Byte) (image : List Byte), 64 ≤ k.toNat → image.length = 12 →
    ∀ bytes ∈ [0x01#8 :: k :: image, [0x02#8, k], [0x03#8, k, gen], [0x04#8, k, gen], [0x08#8, k, gen], [0x09#8, k, gen],
               [0x10#8, k]], judged bytes = .error .badSlot) ∧
  (∀ (k : SlotIx) (gen : Byte) (image : List Byte) (i : Image), Image.ofBytes image = some i →
    judged (0x01#8 :: byteOf k.val :: image) = .ok (.stage k i) ∧
    judged [0x02#8, byteOf k.val] = .ok (.unstage k) ∧ judged [0x03#8, byteOf k.val, gen] = .ok (.mark k gen) ∧
    judged [0x04#8, byteOf k.val, gen] = .ok (.unmark k gen) ∧ judged [0x08#8, byteOf k.val, gen] = .ok (.renew k gen) ∧
    judged [0x09#8, byteOf k.val, gen] = .ok (.revive k gen) ∧ judged [0x10#8, byteOf k.val] = .ok (.readRecord k)) ∧
  (judged [0x05#8] = .ok .commit ∧ judged [0x06#8] = .ok .abandon ∧ judged [0x12#8] = .ok .readStatus ∧
    judged [0x14#8] = .ok .readNotices ∧ judged [0x30#8] = .ok .restart) ∧
  (∀ a b : Byte, judged [0x23#8, a, b] = .ok (.globalConfig a b) ∧ judged [0x28#8, a] = .ok (.clearNotices a)) ∧
  (∀ g a x1 x2 x3 x4 x5 x6 : Byte, 8 ≤ g.toNat →
    ∀ bytes ∈ [[0x13#8, g], [0x20#8, g, x1, x2, x3, x4, x5, x6], [0x21#8, g, a]], judged bytes = .error .badValue) ∧
  (∀ g : SegIx, judged [0x13#8, byteOf g.val] = .ok (.readSegment g) ∧
    judged [0x21#8, byteOf g.val, 1#8] = .ok (.segmentAction g .enable) ∧
    judged [0x21#8, byteOf g.val, 2#8] = .ok (.segmentAction g .disable) ∧
    judged [0x21#8, byteOf g.val, 3#8] = .ok (.segmentAction g .recover) ∧
    (∀ a : Byte, a = 0#8 ∨ 4 ≤ a.toNat → judged [0x21#8, byteOf g.val, a] = .error .badValue)) ∧
  (∀ (g : SegIx) (sel rate mode free timeout retry : Byte),
    let outside :=
      (sel.getLsbD 0 = true ∧ 3 ≤ rate.toNat) ∨ (sel.getLsbD 1 = true ∧ 2 ≤ mode.toNat) ∨
      (sel.getLsbD 2 = true ∧ free ∉ [4#8, 8#8, 16#8, 32#8]) ∨ (sel.getLsbD 3 = true ∧ timeout = 0#8) ∨
      (sel.getLsbD 4 = true ∧ 8 ≤ retry.toNat)
    let answer := judged [0x20#8, byteOf g.val, sel, rate, mode, free, timeout, retry]
    (outside → answer = .error .badValue) ∧
    (¬ outside → ∃ c, answer = .ok (.segmentConfig g c) ∧
      (sel.getLsbD 0 = false → c.rate = none) ∧
      (sel.getLsbD 0 = true →
        (rate = 0#8 → c.rate = some .standard) ∧ (rate = 1#8 → c.rate = some .fast) ∧ (rate = 2#8 → c.rate = some .fastPlus)) ∧
      (sel.getLsbD 1 = false → c.mode = none) ∧
      (sel.getLsbD 1 = true → (mode = 0#8 → c.mode = some .sole) ∧ (mode = 1#8 → c.mode = some .shared)) ∧
      (sel.getLsbD 2 = false → c.busFree = none) ∧
      (sel.getLsbD 2 = true →
        (free = 4#8 → c.busFree = some .p4) ∧ (free = 8#8 → c.busFree = some .p8) ∧ (free = 16#8 → c.busFree = some .p16) ∧
        (free = 32#8 → c.busFree = some .p32)) ∧
      (sel.getLsbD 3 = false → c.timeout = none) ∧ (sel.getLsbD 3 = true → c.timeout = some timeout) ∧
      (sel.getLsbD 4 = false → c.retryLimit = none) ∧
      (sel.getLsbD 4 = true → ∃ n, c.retryLimit = some n ∧ n.toNat = retry.toNat))) ∧
  (∀ port limit : Byte, (2 ≤ port.toNat ∨ limit = 0#8 → judged [0x22#8, port, limit] = .error .badValue) ∧
    (limit ≠ 0#8 → port = 0#8 → judged [0x22#8, port, limit] = .ok (.portConfig .u0 limit)) ∧
    (limit ≠ 0#8 → port = 1#8 → judged [0x22#8, port, limit] = .ok (.portConfig .u1 limit))) ∧
  (∀ port width hi lo dir : Byte,
    (2 ≤ port.toNat ∨ (width ≠ 7#8 ∧ width ≠ 10#8) ∨ 2 ≤ dir.toNat ∨ (width = 7#8 ∧ 0x7F < (hi ++ lo).toNat) ∨
      0x3FF < (hi ++ lo).toNat →
      judged [0x11#8, port, width, hi, lo, dir] = .error .badValue)) ∧
  (∀ (port : Port) (width : Width) (dir : Direction) (hi lo : Byte),
    let portByte := match port with
      | .u0 => 0#8
      | .u1 => 1#8
    let widthByte := match width with
      | .w7 => 7#8
      | .w10 => 10#8
    let directionByte := match dir with
      | .write => 0#8
      | .read => 1#8
    let largest := match width with
      | .w7 => 0x7F
      | .w10 => 0x3FF
    (hi ++ lo).toNat ≤ largest →
      judged [0x11#8, portByte, widthByte, hi, lo, directionByte] =
        .ok (.probe port { width := width, addr := (hi ++ lo).setWidth 10, dir := dir })) ∧
  (∀ (code : Byte) (payload : List Byte),
    code ∉ [0x01#8, 0x02#8, 0x03#8, 0x04#8, 0x05#8, 0x06#8, 0x08#8, 0x09#8, 0x10#8, 0x11#8, 0x12#8, 0x13#8, 0x14#8,
            0x20#8, 0x21#8, 0x22#8, 0x23#8, 0x28#8, 0x30#8] → judged (code :: payload) = .error .unknown)

/-- The fields of a record image at their places in its twelve bytes; the eight validity checks in the addresses and numbers
that the fields stand for, the first that fails naming the refusal; and the record that a valid image gives, whose own image is
the one presented (R14 to R16, R209). -/
def Obligations.RecordImagesAreReadAndJudged : Prop :=
  (∀ b0 b1 b2 b3 b4 b5 b6 b7 b8 b9 b10 b11 : Byte,
    ∃ i, Image.ofBytes [b0, b1, b2, b3, b4, b5, b6, b7, b8, b9, b10, b11] = some i ∧
      i.matchWidth.toNat = b0.toNat / 16 ∧ i.targetWidth.toNat = b0.toNat % 16 ∧
      i.key.toNat = b1.toNat * 256 + b2.toNat ∧ i.mask.toNat = b3.toNat * 256 + b4.toNat ∧
      i.base.toNat = b5.toNat * 256 + b6.toNat ∧ i.segment.toNat = b7.toNat / 16 ∧ i.threshold.toNat = b7.toNat % 16 ∧
      i.limit = b8 ∧ i.kind.toNat = b9.toNat / 64 ∧ i.access.toNat = b9.toNat / 16 % 4 ∧
      i.counted.toNat = b9.toNat / 8 % 2 ∧ i.ports.toNat = b9.toNat % 8 ∧
      i.lifetime.toNat = b10.toNat * 256 + b11.toNat) ∧
  (∀ i : Image, (i.firstFailure = none ↔ ∀ n, 1 ≤ n → n ≤ 8 → imageCheck i n) ∧
    ∀ b : Byte, i.firstFailure = some b ↔
      1 ≤ b.toNat ∧ b.toNat ≤ 8 ∧ ¬ imageCheck i b.toNat ∧ ∀ n, 1 ≤ n → n < b.toNat → imageCheck i n) ∧
  (∀ i : Image, i.firstFailure = none →
    let r := Record.ofImage i
    (i.matchWidth.toNat = 7 → r.width = .w7) ∧ (i.matchWidth.toNat = 10 → r.width = .w10) ∧
    r.key.toNat = i.key.toNat ∧ r.mask.toNat = i.mask.toNat ∧
    r.ports.u0 = i.ports.getLsbD 0 ∧ r.ports.u1 = i.ports.getLsbD 1 ∧
    (i.kind.toNat = 1 → ∃ g w base, r.target = .segment g w base ∧ g.val = i.segment.toNat ∧
      (i.targetWidth.toNat = 7 → w = .w7) ∧ (i.targetWidth.toNat = 10 → w = .w10) ∧ base.toNat = i.base.toNat) ∧
    (i.kind.toNat = 2 → r.target = .localPart) ∧ (i.kind.toNat = 3 → r.target = .deny) ∧
    (i.access.toNat = 1 → r.access = .read) ∧ (i.access.toNat = 2 → r.access = .write) ∧
    (i.access.toNat = 3 → r.access = .readWrite) ∧
    r.limit = (if i.limit = 0#8 then none else some i.limit) ∧ (r.counted = true ↔ i.counted.toNat = 1) ∧
    r.threshold = (if i.threshold = 0#4 then none else some i.threshold) ∧
    r.lifetime = (if i.lifetime = 0#16 then none else some i.lifetime) ∧ r.image = i)

/-- The codes of statuses, slot states, lookup outcomes, segment states, rates and modes, and the bytes of an eight-byte set,
as the tables give them (R208, R211, R212); the address bytes, how many of them are sent, and the levels that the controller
drives and keeps on its lines (R105, R108). Each level pair says whether DSCL and whether DSDA is pulled low. That a Stop
after the nine pulses of a bus clear first pulls DSCL low alone is the model's choice (R121; log 31). -/
def Obligations.CodesAddressBytesAndLevelsAreThoseOfTheTables : Prop :=
  ([Status.ok, .none, .badFrame, .unknown, .badSlot, .badValue, .slotBusy, .badRecord, .stale, .changesetBusy,
      .duplicateMatch, .orphanPort, .segmentActive].map statusCode =
    [0x00#8, 0x01#8, 0x10#8, 0x11#8, 0x12#8, 0x13#8, 0x20#8, 0x21#8, 0x22#8, 0x23#8, 0x24#8, 0x25#8, 0x30#8] ∧
   [SlotState.free, .staged, .live, .quarantined, .draining].map slotStateCode = [0#8, 1#8, 2#8, 3#8, 4#8] ∧
   [Verdict.noMatch, .deny, .access, .quarantined, .segmentDown, .localPart, .forward].map verdictCode =
    [0#8, 1#8, 2#8, 3#8, 4#8, 5#8, 6#8] ∧
   [SegState.disabled, .clearing, .idle, .owned, .releasing, .closing, .faulted].map segStateCode =
    [0#8, 1#8, 2#8, 3#8, 4#8, 5#8, 6#8] ∧
   [Rate.standard, .fast, .fastPlus].map rateCode = [0#8, 1#8, 2#8] ∧ [Mode.sole, .shared].map modeCode = [0#8, 1#8] ∧
   [Port.u0, .u1].map portCode = [0#8, 1#8] ∧ (∀ n, n < 256 → (byteOf n).toNat = n)) ∧
  (∀ x : BitVec 64, (eightBytes x).length = 8 ∧
    ∀ n, n < 64 → ∃ b, (eightBytes x)[7 - n / 8]? = some b ∧ b.getLsbD (n % 8) = x.getLsbD n) ∧
  (∀ (a : Addr) (d : Direction),
    let direction := match d with
      | .write => 0
      | .read => 1
    (∃ b : Byte, Segment.addressDrives .w7 a d = [.byte b] ∧ b.toNat = 2 * (a.toNat % 128) + direction) ∧
    ∃ b c e : Byte, Segment.addressDrives .w10 a .write = [.byte b, .byte c] ∧
      Segment.addressDrives .w10 a .read = [.byte b, .byte c, .restart, .byte e] ∧
      b.toNat = 0xF0 + 2 * (a.toNat / 256) ∧ c.toNat = a.toNat % 256 ∧ e.toNat = 0xF1 + 2 * (a.toNat / 256)) ∧
  ((∀ d, Segment.addressLength .w7 d = 1) ∧ Segment.addressLength .w10 .write = 2 ∧ Segment.addressLength .w10 .read = 3 ∧
   ∀ b c e : Byte, ∀ n, Segment.firstBytes (n + 1) [.byte b] = [.byte b] ∧
    Segment.firstBytes 1 [.byte b, .byte c] = [.byte b] ∧ Segment.firstBytes (n + 2) [.byte b, .byte c] = [.byte b, .byte c] ∧
    Segment.firstBytes 1 [.byte b, .byte c, .restart, .byte e] = [.byte b] ∧
    Segment.firstBytes 2 [.byte b, .byte c, .restart, .byte e] = [.byte b, .byte c] ∧
    Segment.firstBytes (n + 3) [.byte b, .byte c, .restart, .byte e] = [.byte b, .byte c, .restart, .byte e]) ∧
  (let levels := fun d : Drive => (Segment.driveLevels d).map fun l => (l.dscl, l.dsda)
   let bit := fun b : Bool => [(true, !b), (false, !b), (true, !b)]
   levels .start = [(false, false), (false, true), (true, true)] ∧
   levels .restart = [(true, false), (false, false), (false, true), (true, true)] ∧
   levels .stop = [(true, false), (true, true), (false, true), (false, false)] ∧
   (∀ b : Byte, levels (.byte b) =
     bit (b.getLsbD 7) ++ bit (b.getLsbD 6) ++ bit (b.getLsbD 5) ++ bit (b.getLsbD 4) ++ bit (b.getLsbD 3) ++
       bit (b.getLsbD 2) ++ bit (b.getLsbD 1) ++ bit (b.getLsbD 0) ++ bit true) ∧
   levels .clockIn = (List.replicate 8 (bit true)).flatten ∧ levels .ack = bit false ∧ levels .nack = bit true ∧
   levels .clearPulses = (List.replicate 9 [(true, false), (false, false)]).flatten ∧
   ∀ x : Segment, x.restPulls.dsda = false ∧
     (x.restPulls.dscl = true ↔ x.state ∈ [SegState.owned, .releasing, .closing] ∧ x.position ≠ .none))

/-- What an answer of an owning block does: written at once it replaces the port's buffer whole, with the status, the payload's
length and the payload, removes the execution and reports completion; written later it is kept with the execution (R177, R181,
R186; log 9). -/
def Obligations.AnswersReplaceTheResponseBuffer : Prop :=
  ∀ (s : State) (p : Port) (r : Result),
    s.reply p .atOnce r =
      (s.setInterp p { buffer := bufferFor s r, execution := none }).setPort p { s.port p with ownDone := true } ∧
    ∀ e, (s.interpOf p).execution = some e →
      s.reply p .later r = s.setInterp p { s.interpOf p with execution := some { e with progress := .replying r } }

/-! ### The change set (06) -/

/-- STAGE and UNSTAGE: refused to the other port while the change set is OPEN; else the owner's deadline is reloaded, an
occupied slot, an invalid image or a slot not STAGED is refused, and a pass stores the record under the next generation or
frees the slot (R130 to R135). -/
def Obligations.StageAndUnstageWriteTheSlot : Prop :=
  ∀ (s : State) (p : Port) (t : ReplyTime) (k : SlotIx),
    let u := { s with changeSet := touched s }
    let x := s.slot k
    (∀ i, s.passedCommand p = some (.stage k i) →
      (∀ o d, s.changeSet = .opened o d → o ≠ p →
        exec (.stage p t) s = .next (s.reply p t (.done .changesetBusy []))) ∧
      (mayCommand s p → x.state ≠ .free → exec (.stage p t) s = .next (u.reply p t (.done .slotBusy []))) ∧
      (∀ n, mayCommand s p → x.state = .free → i.firstFailure = some n →
        exec (.stage p t) s = .next (u.reply p t (.done .badRecord [n]))) ∧
      (mayCommand s p → x.state = .free → i.firstFailure = none →
        exec (.stage p t) s =
          .next (({ s with changeSet := .opened p (freshDeadline s) }.setSlot k
            { state := .staged, record := some (Record.ofImage i), mark := false, gen := x.gen + 1#8, inflight := 0,
              strikes := 0, lease := .none }).reply p t (.done .ok [x.gen + 1#8])))) ∧
    (s.passedCommand p = some (.unstage k) →
      (∀ o d, s.changeSet = .opened o d → o ≠ p →
        exec (.unstage p t) s = .next (s.reply p t (.done .changesetBusy []))) ∧
      (mayCommand s p → x.state ≠ .staged → exec (.unstage p t) s = .next (u.reply p t (.done .slotBusy []))) ∧
      (mayCommand s p → x.state = .staged →
        exec (.unstage p t) s =
          .next ((u.setSlot k
            { state := .free, record := none, mark := false, gen := x.gen, inflight := 0, strikes := 0,
              lease := .none }).reply p t (.done .ok []))))

/-- MARK and UNMARK pass the same checks in the same order and set or clear the mark; a passing MARK opens an EMPTY change set,
UNMARK never does (R130 to R132, R136, R137). -/
def Obligations.MarkAndUnmarkChangeTheRetirementMark : Prop :=
  ∀ (s : State) (p : Port) (t : ReplyTime) (k : SlotIx) (gen : BitVec 8),
    ∀ e ∈ [(Instr.mark p t, Command.mark k gen), (.unmark p t, .unmark k gen)], s.passedCommand p = some e.2 →
      let u := { s with changeSet := touched s }
      let x := s.slot k
      (∀ o d, s.changeSet = .opened o d → o ≠ p → exec e.1 s = .next (s.reply p t (.done .changesetBusy []))) ∧
      (mayCommand s p → ¬ serves x → exec e.1 s = .next (u.reply p t (.done .slotBusy []))) ∧
      (mayCommand s p → serves x → x.gen ≠ gen → exec e.1 s = .next (u.reply p t (.done .stale []))) ∧
      (mayCommand s p → serves x → x.gen = gen → e.1 = .mark p t →
        exec e.1 s =
          .next (({ s with changeSet := .opened p (freshDeadline s) }.setSlot k { x with mark := true }).reply p t
            (.done .ok []))) ∧
      (mayCommand s p → serves x → x.gen = gen → e.1 = .unmark p t →
        exec e.1 s = .next ((u.setSlot k { x with mark := false }).reply p t (.done .ok [])))

/-- COMMIT: OK with zeros while EMPTY; refused to the other port; validated against the resulting in-service set, first for a
duplicate match, naming the lowest pair, then for a port without a LOCAL route; applied to every slot in one event, with the
counts (R139 to R147). -/
def Obligations.CommitValidatesAndApplies : Prop :=
  ∀ (s : State) (p : Port) (t : ReplyTime), s.passedCommand p = some .commit →
    let resulting := fun k : SlotIx => (s.slot k).state = .staged ∨ (serves (s.slot k) ∧ (s.slot k).mark = false)
    let width := fun r : Record => match r.width with
      | .w7 => 7
      | .w10 => 10
    let duplicate := fun i j : SlotIx => i ≠ j ∧ resulting i ∧ resulting j ∧
      ∃ a b, (s.slot i).record = some a ∧ (s.slot j).record = some b ∧ a.width = b.width ∧ a.mask = b.mask ∧
        (∀ n, n < width a → a.mask.getLsbD n = true → a.key.getLsbD n = b.key.getLsbD n) ∧
        ∃ port, a.ports.get port = true ∧ b.ports.get port = true
    let managed := fun port : Port => ∃ k r, resulting k ∧ (s.slot k).record = some r ∧ r.target = .localPart ∧
      r.ports.get port = true
    let u := { s with changeSet := touched s }
    let count := fun f : Slot → Bool => byteOf ((List.finRange 64).countP fun k => f (s.slot k))
    (s.changeSet = .empty → exec (.commit p t) s = .next (s.reply p t (.done .ok [0#8, 0#8, 0#8]))) ∧
    (∀ o d, s.changeSet = .opened o d → o ≠ p →
      exec (.commit p t) s = .next (s.reply p t (.done .changesetBusy []))) ∧
    (∀ d, s.changeSet = .opened p d →
      (∀ i j, duplicate i j → (∀ i' j', duplicate i' j' → i ≤ i') → (∀ j', duplicate i j' → j ≤ j') →
        exec (.commit p t) s = .next (u.reply p t (.done .duplicateMatch [byteOf i.val, byteOf j.val]))) ∧
      ((∀ i j, ¬ duplicate i j) → ¬ managed .u0 → exec (.commit p t) s = .next (u.reply p t (.done .orphanPort [0#8]))) ∧
      ((∀ i j, ¬ duplicate i j) → managed .u0 → ¬ managed .u1 →
        exec (.commit p t) s = .next (u.reply p t (.done .orphanPort [1#8]))) ∧
      ((∀ i j, ¬ duplicate i j) → managed .u0 → managed .u1 →
        exec (.commit p t) s =
          .next ({ s with
            changeSet := .empty,
            table := s.table.map fun (x : Slot) =>
              if x.state = SlotState.staged then
                { x with
                  state := .live, strikes := 0,
                  lease := match x.record with
                    | some r => freshLease s.now r x.inflight x.lease
                    | none => x.lease }
              else if x.mark = true then
                if x.inflight = 0 then
                  { state := .free, record := none, mark := false, gen := x.gen, inflight := 0, strikes := 0,
                    lease := .none }
                else { x with state := .draining, mark := false }
              else x }.reply p t
            (.done .ok [count fun x => x.state == SlotState.staged, count fun x => x.mark && x.inflight == 0,
              count fun x => x.mark && x.inflight != 0]))))

/-- ABANDON: OK with zeros while EMPTY; refused to the other port; else every STAGED slot is freed, every mark cleared, and the
two counts answered (R149). -/
def Obligations.AbandonDiscardsTheChangeSet : Prop :=
  ∀ (s : State) (p : Port) (t : ReplyTime), s.passedCommand p = some .abandon →
    let count := fun f : Slot → Bool => byteOf ((List.finRange 64).countP fun k => f (s.slot k))
    (s.changeSet = .empty → exec (.abandon p t) s = .next (s.reply p t (.done .ok [0#8, 0#8]))) ∧
    (∀ o d, s.changeSet = .opened o d → o ≠ p →
      exec (.abandon p t) s = .next (s.reply p t (.done .changesetBusy []))) ∧
    (∀ d, s.changeSet = .opened p d →
      exec (.abandon p t) s =
        .next ({ s with
          changeSet := .empty,
          table := s.table.map fun (x : Slot) =>
            if x.state = SlotState.staged then
              { state := .free, record := none, mark := false, gen := x.gen, inflight := 0, strikes := 0, lease := .none }
            else { x with mark := false } }.reply p t
          (.done .ok [count fun x => x.state == SlotState.staged, count fun x => x.mark])))

/-- RENEW and REVIVE: refused where the slot's state, its record or its generation does not fit; else the lease is reloaded and
answered in whole seconds, and REVIVE returns the slot to LIVE without strikes (R162, R172). -/
def Obligations.RenewAndReviveReloadTheLease : Prop :=
  ∀ (s : State) (p : Port) (t : ReplyTime) (k : SlotIx) (gen : BitVec 8), slotOk (s.slot k) →
    let x := s.slot k
    let bytes := fun n : BitVec 16 => [n.extractLsb' 8 8, n.extractLsb' 0 8]
    (s.passedCommand p = some (.renew k gen) →
      (¬ serves x ∨ (∃ r, x.record = some r ∧ r.lifetime = none) →
        exec (.renew p t) s = .next (s.reply p t (.done .slotBusy []))) ∧
      (∀ r n, serves x → x.record = some r → r.lifetime = some n → x.gen ≠ gen →
        exec (.renew p t) s = .next (s.reply p t (.done .stale []))) ∧
      (∀ r n, serves x → x.record = some r → r.lifetime = some n → x.gen = gen →
        exec (.renew p t) s =
          .next ((s.setSlot k { x with lease := freshLease s.now r x.inflight x.lease }).reply p t (.done .ok (bytes n))))) ∧
    (s.passedCommand p = some (.revive k gen) →
      (x.state ≠ .quarantined → exec (.revive p t) s = .next (s.reply p t (.done .slotBusy []))) ∧
      (x.state = .quarantined → x.gen ≠ gen → exec (.revive p t) s = .next (s.reply p t (.done .stale []))) ∧
      (∀ r, x.state = .quarantined → x.record = some r → x.gen = gen →
        exec (.revive p t) s =
          .next ((s.setSlot k { x with
            state := .live, strikes := 0, lease := freshLease s.now r x.inflight x.lease }).reply p t
            (.done .ok (bytes (r.lifetime.getD 0#16))))))

/-! ### Read commands (8.4, 9.4, 10.5) -/

/-- The payloads of READ_RECORD, PROBE, READ_STATUS, READ_SEGMENT and READ_NOTICES, item by item; nothing else changes (R184 to
R187, R203, R212). A running lease shows at least one second (log 16). -/
def Obligations.ReadCommandsReturnWhatTheBlocksHold : Prop :=
  ∀ (s : State) (p : Port) (t : ReplyTime),
    let code := fun port : Port => match port with
      | .u0 => 0#8
      | .u1 => 1#8
    let number := fun f : Slot → Bool => byteOf ((List.finRange 64).countP fun k => f (s.slot k))
    (∀ k, s.passedCommand p = some (.readRecord k) →
      let x := s.slot k
      let seconds := match x.lease with
        | .none => 0
        | .running e => max 1 ((e - s.now + 7999999) / 8000000)
        | .paused left => (left + 7999999) / 8000000
      exec (.readRecord p t) s =
        .next (s.reply p t (.done .ok ([slotStateCode x.state] ++
          (match x.record with
            | some r => r.image.toBytes
            | none => List.replicate 12 0#8) ++
          [x.gen, if x.mark then 1#8 else 0#8, byteOf x.inflight, byteOf x.strikes] ++
          [(BitVec.ofNat 16 seconds).extractLsb' 8 8, (BitVec.ofNat 16 seconds).extractLsb' 0 8])))) ∧
    (∀ port q, s.passedCommand p = some (.probe port q) →
      ((s.lookupResult port q).2 = none →
        exec (.probe p t) s =
          .next (s.reply p t (.done .ok [verdictCode (s.lookupResult port q).1, 0#8, 0#8, 0#8, 0#8, 0#8, 0#8]))) ∧
      (∀ k r g w base, (s.lookupResult port q).2 = some (k, r) → r.target = .segment g w base →
        exec (.probe p t) s =
          .next (s.reply p t (.done .ok
            [verdictCode (s.lookupResult port q).1, byteOf k.val, (s.slot k).gen, byteOf g.val,
             (match w with
              | .w7 => 7#8
              | .w10 => 10#8),
             (r.translate w base q.addr).extractLsb' 8 8, (r.translate w base q.addr).extractLsb' 0 8]))) ∧
      (∀ k r, (s.lookupResult port q).2 = some (k, r) → (r.target = .localPart ∨ r.target = .deny) →
        exec (.probe p t) s =
          .next (s.reply p t (.done .ok
            [verdictCode (s.lookupResult port q).1, byteOf k.val, (s.slot k).gen, 0#8, 0#8, 0#8, 0#8])))) ∧
    (s.passedCommand p = some .readStatus →
      exec (.readStatus p t) s =
        .next (s.reply p t (.statusPart
          [number fun x => x.state == .free, number fun x => x.state == .staged, number fun x => x.state == .live,
           number fun x => x.state == .quarantined, number fun x => x.state == .draining,
           (match s.changeSet with
            | .empty => 0#8
            | .opened _ _ => 1#8),
           (match s.changeSet with
            | .empty => 0#8
            | .opened o _ => code o),
           (match s.changeSet with
            | .opened _ (some e) => byteOf ((e - s.now + 799999) / 800000)
            | .opened _ none | .empty => 0#8),
           number fun x => x.state == .staged, number fun x => x.mark, s.straps.setWidth 8]))) ∧
    (∀ g, s.passedCommand p = some (.readSegment g) →
      let x := s.seg g
      exec (.readSegment p t) s =
        .next (s.reply p t (.done .ok
          [segStateCode x.state,
           (match x.owner with
            | some o => code o
            | none => 0#8),
           byteOf x.queue.length,
           (match x.queue with
            | [] => 0#8
            | a :: _ => code a),
           (match x.queue with
            | _ :: b :: _ => code b
            | [_] | [] => 0#8),
           rateCode x.config.rate, modeCode x.config.mode,
           (match x.config.busFree with
            | .p4 => 4#8
            | .p8 => 8#8
            | .p16 => 16#8
            | .p32 => 32#8),
           x.config.timeout, x.config.retryLimit.setWidth 8, byteOf x.attempts]))) ∧
    (s.passedCommand p = some .readNotices →
      ∃ presence : Byte, (∀ k : Kind, presence.getLsbD k.number.val = (s.note k).present) ∧
        exec (.readNotices p t) s =
          .next (s.reply p t (.done .ok
            ([presence, (s.note .miss).members.setWidth 8, (s.note .holdTimeout).members.setWidth 8,
              (s.note .changesetExpired).members.setWidth 8] ++
             eightBytes (s.note .routeQuarantined).members ++ eightBytes (s.note .routeExpired).members ++
             eightBytes (s.note .routeDrained).members ++
             [(s.note .segmentFault).members.setWidth 8, (s.note .segmentCleared).members.setWidth 8]))))

/-! ### Configuration commands and segment actions (5.2, 5.10, 8.5) -/

/-- SEGMENT_CONFIG stores the selected fields in DISABLED and is refused elsewhere (R99, R188); PORT_CONFIG stores the named
port's hold limit (R190); GLOBAL_CONFIG stores the alert mask and the idle limit, and ALERT takes the level of the new mask in
the same event (R191, R204, R205). -/
def Obligations.ConfigurationCommandsStoreTheirValues : Prop :=
  ∀ (s : State) (p : Port) (t : ReplyTime),
    (∀ g c, s.passedCommand p = some (.segmentConfig g c) →
      ((s.seg g).state = .disabled →
        exec (.segmentConfig p t) s =
          .next ((s.setSeg g { s.seg g with
            config :=
              { rate := c.rate.getD (s.seg g).config.rate, mode := c.mode.getD (s.seg g).config.mode,
                busFree := c.busFree.getD (s.seg g).config.busFree, timeout := c.timeout.getD (s.seg g).config.timeout,
                retryLimit := c.retryLimit.getD (s.seg g).config.retryLimit } }).reply p t (.done .ok []))) ∧
      ((s.seg g).state ≠ .disabled →
        exec (.segmentConfig p t) s = .next (s.reply p t (.done .segmentActive [])))) ∧
    (∀ port limit, s.passedCommand p = some (.portConfig port limit) →
      exec (.portConfig p t) s =
        .next ((s.setPort port { s.port port with holdLimit := limit }).reply p t (.done .ok []))) ∧
    (∀ mask idle, s.passedCommand p = some (.globalConfig mask idle) →
      ∃ level : Bool,
        (level = true ↔ ∃ k : Kind, (s.note k).present = true ∧ mask.getLsbD k.number.val = true) ∧
        exec (.globalConfig p t) s =
          .next ({ s with alertMask := mask, idleLimit := idle, alertLow := level }.reply p t (.done .ok [])))

/-- ENABLE, RECOVER and DISABLE, state by state, each answered OK (R118, R124, R125, R189). A DISABLE in OWNED with nothing
driving leads to CLOSING while a transaction is open, and at position NONE to DISABLED in the same event (log 11). -/
def Obligations.SegmentActionsActByState : Prop :=
  ∀ (s : State) (p : Port) (t : ReplyTime) (g : SegIx), SegmentOk (s.seg g) → timerOk (s.seg g) →
    let x := s.seg g
    let done := fun u : State => Host.Outcome.next (u.reply p t (.done .ok []))
    (s.passedCommand p = some (.segmentAction g .enable) →
      (x.state = .disabled ∨ x.state = .faulted → exec (.enable p t) s = done (s.setSeg g (clocked s.now (clearingFrom x)))) ∧
      (x.state ≠ .disabled → x.state ≠ .faulted → exec (.enable p t) s = done s)) ∧
    (s.passedCommand p = some (.segmentAction g .recover) →
      (x.state = .faulted → exec (.recover p t) s = done (s.setSeg g (clocked s.now (clearingFrom x)))) ∧
      (x.state ≠ .faulted → exec (.recover p t) s = done s)) ∧
    (s.passedCommand p = some (.segmentAction g .disable) →
      (x.state = .owned → drives x →
        exec (.disable p t) s =
          done ((s.setSeg g (clocked s.now { x with
            state := .closing, owner := none, asks := x.asks.take 1, queue := [], pendingCancel := x.owner })).deliver g
            (refusalsOf x))) ∧
      (x.state = .owned → ¬ drives x → x.position ≠ .none →
        exec (.disable p t) s =
          done ((s.setSeg g (clocked s.now { x with
            state := .closing, owner := none, asks := [], stage := .none, queue := [] })).deliver g
            (sentTo x.owner .cancelled ++ refusalsOf x))) ∧
      (x.state = .owned → ¬ drives x → x.position = .none →
        exec (.disable p t) s =
          done ((s.setSeg g { disabledAfter x with queue := [] }).deliver g
            (sentTo x.owner .cancelled ++ refusalsOf x))) ∧
      (x.state = .idle → exec (.disable p t) s = done (s.setSeg g (disabledAfter x))) ∧
      (x.state = .releasing →
        exec (.disable p t) s =
          done ((s.setSeg g { x with state := .closing, queue := [] }).deliver g (refusalsOf x))) ∧
      (x.state = .clearing →
        exec (.disable p t) s =
          done ((s.setSeg g { disabledAfter x with queue := [], driven := [] }).deliver g (refusalsOf x))) ∧
      (x.state = .faulted → exec (.disable p t) s = done (s.setSeg g (disabledAfter x))) ∧
      (x.state = .closing ∨ x.state = .disabled → exec (.disable p t) s = done s))

/-! ### RESTART (3.9, 5.11, 1.6, 9.6, 8.6) -/

/-- RESTART takes its five steps in order (R192): the other port's context cancelled (R72), each segment (R127), the table (R25),
the notice set (R207), the buffers (R194). Taken whole it is those steps in a row (log 10). A segment OWNED at position NONE
with nothing driving enters IDLE, or is granted again, in the event of step 2 (log 11). -/
def Obligations.RestartTakesItsFiveSteps : Prop :=
  ∀ (s : State) (p : Port) (straps : BitVec 2) (e : Execution), (s.interpOf p).execution = some e →
    let o := otherPort p
    let c := s.port o
    let at_ := fun (u : State) (n : Nat) (gen : BitVec 8) (address : Byte) =>
      u.setInterp p { s.interpOf p with execution := some { e with progress := .restarting n gen address } }
    (e.progress = .passed .restart →
      (c.phase = .idle ∨ c.phase = .unaddressed → exec (.restart p straps false) s = .next (at_ s 1 0#8 0#8)) ∧
      (c.phase ≠ .idle → c.phase ≠ .unaddressed →
        exec (.restart p straps false) s =
          .next (at_ (s.setPort o { c.ended .absorb with
            toSegments := c.toSegments ++ withdrawalSent c.link, hold := none, held := none, frame := [], overflow := false,
            awaiting := false, stale := if c.awaiting then c.stale + 1 else c.stale,
            lastAnswer := if c.hold = none then c.lastAnswer
              else some (if c.phase = Phase.read then Answer.byte 0xFF#8 else Answer.nack) }) 1 0#8 0#8))) ∧
    (∀ gen address, e.progress = .restarting 1 gen address → segmentsOk s →
      ∃ (t : State) (sends : SegIx → List (Port × PortMsg)),
        exec (.restart p straps false) s = .next (at_ t 2 gen address) ∧
        t = { s with segments := t.segments, ports := t.ports } ∧
        (∀ g, let x := s.seg g
          (x.state = .owned →
            ∃ y more, releasedBy { x with queue := [] } y more ∧ t.seg g = clocked s.now y ∧
              sends g = sentTo x.owner .cancelled ++ refusalsOf x ++ more) ∧
          (x.state ∈ [SegState.idle, .releasing, .clearing] →
            t.seg g = { x with queue := [] } ∧ sends g = refusalsOf x) ∧
          (x.state ∈ [SegState.closing, .disabled, .faulted] → t.seg g = x ∧ sends g = [])) ∧
        (∀ r, t.port r = { s.port r with
          fromSegments := (s.port r).fromSegments ++
            (List.finRange 8).flatMap fun g => ((sends g).filter fun m => m.1 = r).map fun m => (g, m.2) })) ∧
    (∀ gen address, e.progress = .restarting 2 gen address →
      exec (.restart p straps false) s =
        .next (at_ { s with
          changeSet := .empty, straps := straps,
          table := (s.table.map fun x =>
            { state := .free, record := none, mark := false, gen := x.gen, inflight := 0, strikes := 0,
              lease := .none }).set 0
            { state := .live, mark := false, gen := (s.slot 0).gen + 1#8, inflight := 0, strikes := 0, lease := .none,
              record := some { width := .w7, key := 0x2C#10 + straps.setWidth 10, mask := 0x7F#10,
                               ports := { u0 := true, u1 := true }, target := .localPart, access := .readWrite,
                               limit := none, counted := false, threshold := none, lifetime := none } } }
          3 ((s.slot 0).gen + 1#8) (0x2C#8 + straps.setWidth 8))) ∧
    (∀ gen address, e.progress = .restarting 3 gen address →
      ∃ t : State, exec (.restart p straps false) s = .next (at_ t 4 gen address) ∧
        t = { s with notices := t.notices, alertLow := false } ∧
        ∀ k, t.note k = { present := false, members := 0#64 }) ∧
    (∀ gen address, e.progress = .restarting 4 gen address →
      exec (.restart p straps false) s =
        .next ((((s.setInterp o { s.interpOf o with buffer := [0x01#8, 0#8] }).setInterp p
            { buffer := [0#8, 2#8, gen, address], execution := none }).setPort p { s.port p with ownDone := true }).setPort o
          { s.port o with restartDone := true })) ∧
    (e.progress = .passed .restart →
      ∃ t1 t2 t3 t4 t5, exec (.restart p straps false) s = .next t1 ∧ exec (.restart p straps false) t1 = .next t2 ∧
        exec (.restart p straps false) t2 = .next t3 ∧ exec (.restart p straps false) t3 = .next t4 ∧
        exec (.restart p straps false) t4 = .next t5 ∧ exec (.restart p straps true) s = .next t5)

/-! ### Notices (09) -/

/-- A raise makes its kind present and adds the member, whatever the mask; CLEAR_NOTICES removes the selected kinds with their
members; no other kind changes, and ALERT is low in each of these events exactly when a present kind is enabled (R200, R201,
R205). -/
def Obligations.NoticesAreRaisedAndCleared : Prop :=
  (∀ (s : State) (n : Notice), ∃ t : State, s.raise n = t ∧ t = { s with notices := t.notices, alertLow := t.alertLow } ∧
    (t.note n.kind).present = true ∧
    (∀ i : Nat, (t.note n.kind).members.getLsbD i = true ↔ i = n.member.val ∨ (s.note n.kind).members.getLsbD i = true) ∧
    (∀ k, k ≠ n.kind → t.note k = s.note k) ∧
    (t.alertLow = true ↔ ∃ k : Kind, (t.note k).present = true ∧ s.alertMask.getLsbD k.number.val = true)) ∧
  (∀ (s : State) (p : Port) (r : ReplyTime) (mask : Byte), s.passedCommand p = some (.clearNotices mask) →
    ∃ t : State, exec (.clearNotices p r) s = .next (t.reply p r (.done .ok [])) ∧
      t = { s with notices := t.notices, alertLow := t.alertLow } ∧
      (∀ k : Kind, mask.getLsbD k.number.val = true → t.note k = { present := false, members := 0#64 }) ∧
      (∀ k : Kind, mask.getLsbD k.number.val = false → t.note k = s.note k) ∧
      (t.alertLow = true ↔ ∃ k : Kind, (t.note k).present = true ∧ s.alertMask.getLsbD k.number.val = true))

/-! ### What every step keeps -/

/-- Every step keeps the notice set sound: a kind is present exactly when it has a member, of its own universe, and ALERT has
the level that the set and the mask give (R199, R205). -/
def Obligations.EveryStepKeepsTheNoticesSound : Prop :=
  ∀ s t : State, noticesOk s → step s = .next t → noticesOk t

/-- Every step keeps every segment controller sound: its owner, queue, asks, position and counts fit its state (R96, R97,
R100), and its clock-low timer runs exactly while one of its conditions holds (R119). How long the queue and the ask list
can be, and that a port stands with one segment at most, are in EveryStepKeepsTheSegmentLinks. -/
def Obligations.EveryStepKeepsTheSegmentsSound : Prop :=
  ∀ s t : State, segmentsOk s → step s = .next t → segmentsOk t

/-- Every step keeps both port controllers sound: binding, segment link, hold, frame and memory fit the phase (R43, 3.2). -/
def Obligations.EveryStepKeepsThePortsSound : Prop :=
  ∀ s t : State, portsOk s → step s = .next t → portsOk t

/-- Every step keeps the route table and the change set sound: every slot fits its state, no two in-service slots duplicate
each other on a common port, each port has an in-service LOCAL route (R1 to R3, R128, R141, R143, R158, R164); and every
response buffer, hold limit and timeout stays within its form (R65, R181, R188). -/
def Obligations.EveryStepKeepsTheTableAndSettingsSound : Prop :=
  (∀ s t : State, TableOk s → step s = .next t → TableOk t) ∧
  (∀ s t : State, SettingsOk s → step s = .next t → SettingsOk t)

/-- Every step keeps each context bound to one slot at most and each in-flight count within the bindings, messages under way
counted: so a count is never above 2 and at most two slots are DRAINING (R19, R22, R146; log 29). Where no binding names the
generation that a slot's next record will have (R18), every step keeps the count of each slot in service or DRAINING equal to
the bindings (R19). -/
def Obligations.EveryStepKeepsTheInFlightCounts : Prop :=
  (∀ s t : State, portsOk s → TableOk s → countsOk s → step s = .next t → countsOk t) ∧
  (∀ s t : State, portsOk s → TableOk s → countsOk s → countsExact s → nextGenerationsFresh s → step s = .next t →
    countsExact t) ∧
  (∀ s : State, countsOk s → ∀ k, (s.slot k).inflight ≤ 2) ∧
  (∀ s : State, countsOk s → TableOk s → ∀ i j k, (s.slot i).state = .draining → (s.slot j).state = .draining →
    (s.slot k).state = .draining → i = j ∨ i = k ∨ j = k)

/-- Every step keeps the ports' links and the segments' owners, queues and ask lists in agreement, requests, grants and
messages under way counted: so a port owns or waits for one segment at most and never both, a queue holds at most two ports and
never the same twice, and an ask list at most three asks (R67, R96, R100, R103, R107). -/
def Obligations.EveryStepKeepsTheSegmentLinks : Prop :=
  (∀ s t : State, portsOk s → segmentsOk s → linksOk s → step s = .next t → linksOk t) ∧
  (∀ s : State, linksOk s →
    (∀ g, (s.seg g).queue.length ≤ 2 ∧ (s.seg g).queue.Nodup ∧ (s.seg g).asks.length ≤ 3) ∧
    (∀ p g, (s.seg g).owner = some p → p ∉ (s.seg g).queue) ∧
    (∀ p g h, (s.seg g).owner = some p ∨ p ∈ (s.seg g).queue → (s.seg h).owner = some p ∨ p ∈ (s.seg h).queue → g = h))

/-- The state after a device reset is sound in every one of these ways, whatever the straps. -/
def Obligations.TheResetStateIsSound : Prop :=
  ∀ straps : BitVec 2, let s := State.resetWith straps
    noticesOk s ∧ segmentsOk s ∧ portsOk s ∧ TableOk s ∧ SettingsOk s ∧ countsOk s ∧ countsExact s ∧
      nextGenerationsFresh s ∧ linksOk s

/-- A valid image is stored exactly as presented: once staged, READ_RECORD returns its twelve bytes one for one (R184, R209).
The STAGE ends its port's execution, so the READ_RECORD that follows at once is the other port's, passed on before. -/
def Obligations.StagedImagesAreReturnedByteForByte : Prop :=
  ∀ (s : State) (p : Port) (k : SlotIx) (bytes : List Byte) (i : Image),
    Image.ofBytes bytes = some i → i.firstFailure = none → s.passedCommand p = some (.stage k i) → mayCommand s p →
    (s.slot k).state = .free →
    ∃ t, exec (.stage p .atOnce) s = .next t ∧
      ∀ (o : Port) (r : ReplyTime), t.passedCommand o = some (.readRecord k) →
        exec (.readRecord o r) t =
          .next (t.reply o r (.done .ok
            ([1#8] ++ bytes ++ [(s.slot k).gen + 1#8, 0#8, 0#8, 0#8, 0#8, 0#8])))

end
end

