-- ==== Sys2Proof/Laws/State.lean ====
section
/-! SUPPORT. What each update of the state leaves and changes, one lemma for each field, so that no proof unfolds a record. -/

namespace Sys2Proof.Machine

/-! ### Pairs -/

namespace Both

@[simp] theorem get_set_same {α : Type} (b : Both α) (p : Port) (a : α) : (b.set p a).get p = a := by cases p <;> rfl

theorem get_set {α : Type} (b : Both α) (p r : Port) (a : α) : (b.set p a).get r = if r = p then a else b.get r := by
  cases p <;> cases r <;> rfl

@[simp] theorem set_get {α : Type} (b : Both α) (p : Port) : b.set p (b.get p) = b := by cases p <;> rfl

@[simp] theorem set_set {α : Type} (b : Both α) (p : Port) (a c : α) : (b.set p a).set p c = b.set p c := by
  cases p <;> rfl

end Both

namespace State

/-! ### setPort -/

@[simp] theorem setPort_now (s : State) (p : Port) (q : PortCtl) : (s.setPort p q).now = s.now := rfl
@[simp] theorem setPort_straps (s : State) (p : Port) (q : PortCtl) : (s.setPort p q).straps = s.straps := rfl
@[simp] theorem setPort_table (s : State) (p : Port) (q : PortCtl) : (s.setPort p q).table = s.table := rfl
@[simp] theorem setPort_slot (s : State) (p : Port) (q : PortCtl) (j : SlotIx) : (s.setPort p q).slot j = s.slot j := rfl
@[simp] theorem setPort_changeSet (s : State) (p : Port) (q : PortCtl) : (s.setPort p q).changeSet = s.changeSet := rfl
@[simp] theorem setPort_segments (s : State) (p : Port) (q : PortCtl) : (s.setPort p q).segments = s.segments := rfl
@[simp] theorem setPort_seg (s : State) (p : Port) (q : PortCtl) (h : SegIx) : (s.setPort p q).seg h = s.seg h := rfl
@[simp] theorem setPort_interp (s : State) (p : Port) (q : PortCtl) : (s.setPort p q).interp = s.interp := rfl
@[simp] theorem setPort_interpOf (s : State) (p : Port) (q : PortCtl) (r : Port) : (s.setPort p q).interpOf r = s.interpOf r := rfl
@[simp] theorem setPort_alertMask (s : State) (p : Port) (q : PortCtl) : (s.setPort p q).alertMask = s.alertMask := rfl
@[simp] theorem setPort_idleLimit (s : State) (p : Port) (q : PortCtl) : (s.setPort p q).idleLimit = s.idleLimit := rfl
@[simp] theorem setPort_notices (s : State) (p : Port) (q : PortCtl) : (s.setPort p q).notices = s.notices := rfl
@[simp] theorem setPort_note (s : State) (p : Port) (q : PortCtl) (c : Kind) : (s.setPort p q).note c = s.note c := rfl
@[simp] theorem setPort_alertLow (s : State) (p : Port) (q : PortCtl) : (s.setPort p q).alertLow = s.alertLow := rfl
@[simp] theorem setPort_pending (s : State) (p : Port) (q : PortCtl) : (s.setPort p q).pending = s.pending := rfl
theorem setPort_ports (s : State) (p : Port) (q : PortCtl) : (s.setPort p q).ports = s.ports.set p q := rfl

/-! ### onPort -/

@[simp] theorem onPort_now (s : State) (p : Port) (f : PortCtl → PortCtl) : (s.onPort p f).now = s.now := rfl
@[simp] theorem onPort_straps (s : State) (p : Port) (f : PortCtl → PortCtl) : (s.onPort p f).straps = s.straps := rfl
@[simp] theorem onPort_table (s : State) (p : Port) (f : PortCtl → PortCtl) : (s.onPort p f).table = s.table := rfl
@[simp] theorem onPort_slot (s : State) (p : Port) (f : PortCtl → PortCtl) (j : SlotIx) : (s.onPort p f).slot j = s.slot j := rfl
@[simp] theorem onPort_changeSet (s : State) (p : Port) (f : PortCtl → PortCtl) : (s.onPort p f).changeSet = s.changeSet := rfl
@[simp] theorem onPort_segments (s : State) (p : Port) (f : PortCtl → PortCtl) : (s.onPort p f).segments = s.segments := rfl
@[simp] theorem onPort_seg (s : State) (p : Port) (f : PortCtl → PortCtl) (h : SegIx) : (s.onPort p f).seg h = s.seg h := rfl
@[simp] theorem onPort_interp (s : State) (p : Port) (f : PortCtl → PortCtl) : (s.onPort p f).interp = s.interp := rfl
@[simp] theorem onPort_interpOf (s : State) (p : Port) (f : PortCtl → PortCtl) (r : Port) : (s.onPort p f).interpOf r = s.interpOf r := rfl
@[simp] theorem onPort_alertMask (s : State) (p : Port) (f : PortCtl → PortCtl) : (s.onPort p f).alertMask = s.alertMask := rfl
@[simp] theorem onPort_idleLimit (s : State) (p : Port) (f : PortCtl → PortCtl) : (s.onPort p f).idleLimit = s.idleLimit := rfl
@[simp] theorem onPort_notices (s : State) (p : Port) (f : PortCtl → PortCtl) : (s.onPort p f).notices = s.notices := rfl
@[simp] theorem onPort_note (s : State) (p : Port) (f : PortCtl → PortCtl) (c : Kind) : (s.onPort p f).note c = s.note c := rfl
@[simp] theorem onPort_alertLow (s : State) (p : Port) (f : PortCtl → PortCtl) : (s.onPort p f).alertLow = s.alertLow := rfl
@[simp] theorem onPort_pending (s : State) (p : Port) (f : PortCtl → PortCtl) : (s.onPort p f).pending = s.pending := rfl
theorem onPort_ports (s : State) (p : Port) (f : PortCtl → PortCtl) : (s.onPort p f).ports = s.ports.set p (f (s.port p)) := rfl

/-! ### setSeg -/

@[simp] theorem setSeg_now (s : State) (g : SegIx) (x : Segment) : (s.setSeg g x).now = s.now := rfl
@[simp] theorem setSeg_straps (s : State) (g : SegIx) (x : Segment) : (s.setSeg g x).straps = s.straps := rfl
@[simp] theorem setSeg_table (s : State) (g : SegIx) (x : Segment) : (s.setSeg g x).table = s.table := rfl
@[simp] theorem setSeg_slot (s : State) (g : SegIx) (x : Segment) (j : SlotIx) : (s.setSeg g x).slot j = s.slot j := rfl
@[simp] theorem setSeg_changeSet (s : State) (g : SegIx) (x : Segment) : (s.setSeg g x).changeSet = s.changeSet := rfl
@[simp] theorem setSeg_ports (s : State) (g : SegIx) (x : Segment) : (s.setSeg g x).ports = s.ports := rfl
@[simp] theorem setSeg_port (s : State) (g : SegIx) (x : Segment) (r : Port) : (s.setSeg g x).port r = s.port r := rfl
@[simp] theorem setSeg_interp (s : State) (g : SegIx) (x : Segment) : (s.setSeg g x).interp = s.interp := rfl
@[simp] theorem setSeg_interpOf (s : State) (g : SegIx) (x : Segment) (r : Port) : (s.setSeg g x).interpOf r = s.interpOf r := rfl
@[simp] theorem setSeg_alertMask (s : State) (g : SegIx) (x : Segment) : (s.setSeg g x).alertMask = s.alertMask := rfl
@[simp] theorem setSeg_idleLimit (s : State) (g : SegIx) (x : Segment) : (s.setSeg g x).idleLimit = s.idleLimit := rfl
@[simp] theorem setSeg_notices (s : State) (g : SegIx) (x : Segment) : (s.setSeg g x).notices = s.notices := rfl
@[simp] theorem setSeg_note (s : State) (g : SegIx) (x : Segment) (c : Kind) : (s.setSeg g x).note c = s.note c := rfl
@[simp] theorem setSeg_alertLow (s : State) (g : SegIx) (x : Segment) : (s.setSeg g x).alertLow = s.alertLow := rfl
@[simp] theorem setSeg_pending (s : State) (g : SegIx) (x : Segment) : (s.setSeg g x).pending = s.pending := rfl

/-! ### setSlot -/

@[simp] theorem setSlot_now (s : State) (k : SlotIx) (x : Slot) : (s.setSlot k x).now = s.now := rfl
@[simp] theorem setSlot_straps (s : State) (k : SlotIx) (x : Slot) : (s.setSlot k x).straps = s.straps := rfl
@[simp] theorem setSlot_changeSet (s : State) (k : SlotIx) (x : Slot) : (s.setSlot k x).changeSet = s.changeSet := rfl
@[simp] theorem setSlot_ports (s : State) (k : SlotIx) (x : Slot) : (s.setSlot k x).ports = s.ports := rfl
@[simp] theorem setSlot_port (s : State) (k : SlotIx) (x : Slot) (r : Port) : (s.setSlot k x).port r = s.port r := rfl
@[simp] theorem setSlot_segments (s : State) (k : SlotIx) (x : Slot) : (s.setSlot k x).segments = s.segments := rfl
@[simp] theorem setSlot_seg (s : State) (k : SlotIx) (x : Slot) (h : SegIx) : (s.setSlot k x).seg h = s.seg h := rfl
@[simp] theorem setSlot_interp (s : State) (k : SlotIx) (x : Slot) : (s.setSlot k x).interp = s.interp := rfl
@[simp] theorem setSlot_interpOf (s : State) (k : SlotIx) (x : Slot) (r : Port) : (s.setSlot k x).interpOf r = s.interpOf r := rfl
@[simp] theorem setSlot_alertMask (s : State) (k : SlotIx) (x : Slot) : (s.setSlot k x).alertMask = s.alertMask := rfl
@[simp] theorem setSlot_idleLimit (s : State) (k : SlotIx) (x : Slot) : (s.setSlot k x).idleLimit = s.idleLimit := rfl
@[simp] theorem setSlot_notices (s : State) (k : SlotIx) (x : Slot) : (s.setSlot k x).notices = s.notices := rfl
@[simp] theorem setSlot_note (s : State) (k : SlotIx) (x : Slot) (c : Kind) : (s.setSlot k x).note c = s.note c := rfl
@[simp] theorem setSlot_alertLow (s : State) (k : SlotIx) (x : Slot) : (s.setSlot k x).alertLow = s.alertLow := rfl
@[simp] theorem setSlot_pending (s : State) (k : SlotIx) (x : Slot) : (s.setSlot k x).pending = s.pending := rfl

/-! ### setInterp -/

@[simp] theorem setInterp_now (s : State) (p : Port) (x : InterpPort) : (s.setInterp p x).now = s.now := rfl
@[simp] theorem setInterp_straps (s : State) (p : Port) (x : InterpPort) : (s.setInterp p x).straps = s.straps := rfl
@[simp] theorem setInterp_table (s : State) (p : Port) (x : InterpPort) : (s.setInterp p x).table = s.table := rfl
@[simp] theorem setInterp_slot (s : State) (p : Port) (x : InterpPort) (j : SlotIx) : (s.setInterp p x).slot j = s.slot j := rfl
@[simp] theorem setInterp_changeSet (s : State) (p : Port) (x : InterpPort) : (s.setInterp p x).changeSet = s.changeSet := rfl
@[simp] theorem setInterp_ports (s : State) (p : Port) (x : InterpPort) : (s.setInterp p x).ports = s.ports := rfl
@[simp] theorem setInterp_port (s : State) (p : Port) (x : InterpPort) (r : Port) : (s.setInterp p x).port r = s.port r := rfl
@[simp] theorem setInterp_segments (s : State) (p : Port) (x : InterpPort) : (s.setInterp p x).segments = s.segments := rfl
@[simp] theorem setInterp_seg (s : State) (p : Port) (x : InterpPort) (h : SegIx) : (s.setInterp p x).seg h = s.seg h := rfl
@[simp] theorem setInterp_alertMask (s : State) (p : Port) (x : InterpPort) : (s.setInterp p x).alertMask = s.alertMask := rfl
@[simp] theorem setInterp_idleLimit (s : State) (p : Port) (x : InterpPort) : (s.setInterp p x).idleLimit = s.idleLimit := rfl
@[simp] theorem setInterp_notices (s : State) (p : Port) (x : InterpPort) : (s.setInterp p x).notices = s.notices := rfl
@[simp] theorem setInterp_note (s : State) (p : Port) (x : InterpPort) (c : Kind) : (s.setInterp p x).note c = s.note c := rfl
@[simp] theorem setInterp_alertLow (s : State) (p : Port) (x : InterpPort) : (s.setInterp p x).alertLow = s.alertLow := rfl
@[simp] theorem setInterp_pending (s : State) (p : Port) (x : InterpPort) : (s.setInterp p x).pending = s.pending := rfl
theorem setInterp_interp (s : State) (p : Port) (x : InterpPort) : (s.setInterp p x).interp = s.interp.set p x := rfl

/-! ### mapSlots -/

@[simp] theorem mapSlots_now (s : State) (f : Slot → Slot) : (s.mapSlots f).now = s.now := rfl
@[simp] theorem mapSlots_straps (s : State) (f : Slot → Slot) : (s.mapSlots f).straps = s.straps := rfl
@[simp] theorem mapSlots_changeSet (s : State) (f : Slot → Slot) : (s.mapSlots f).changeSet = s.changeSet := rfl
@[simp] theorem mapSlots_ports (s : State) (f : Slot → Slot) : (s.mapSlots f).ports = s.ports := rfl
@[simp] theorem mapSlots_port (s : State) (f : Slot → Slot) (r : Port) : (s.mapSlots f).port r = s.port r := rfl
@[simp] theorem mapSlots_segments (s : State) (f : Slot → Slot) : (s.mapSlots f).segments = s.segments := rfl
@[simp] theorem mapSlots_seg (s : State) (f : Slot → Slot) (h : SegIx) : (s.mapSlots f).seg h = s.seg h := rfl
@[simp] theorem mapSlots_interp (s : State) (f : Slot → Slot) : (s.mapSlots f).interp = s.interp := rfl
@[simp] theorem mapSlots_interpOf (s : State) (f : Slot → Slot) (r : Port) : (s.mapSlots f).interpOf r = s.interpOf r := rfl
@[simp] theorem mapSlots_alertMask (s : State) (f : Slot → Slot) : (s.mapSlots f).alertMask = s.alertMask := rfl
@[simp] theorem mapSlots_idleLimit (s : State) (f : Slot → Slot) : (s.mapSlots f).idleLimit = s.idleLimit := rfl
@[simp] theorem mapSlots_notices (s : State) (f : Slot → Slot) : (s.mapSlots f).notices = s.notices := rfl
@[simp] theorem mapSlots_note (s : State) (f : Slot → Slot) (c : Kind) : (s.mapSlots f).note c = s.note c := rfl
@[simp] theorem mapSlots_alertLow (s : State) (f : Slot → Slot) : (s.mapSlots f).alertLow = s.alertLow := rfl
@[simp] theorem mapSlots_pending (s : State) (f : Slot → Slot) : (s.mapSlots f).pending = s.pending := rfl

/-! ### advanceTo -/

@[simp] theorem advanceTo_straps (s : State) (t : Nat) : (s.advanceTo t).straps = s.straps := rfl
@[simp] theorem advanceTo_table (s : State) (t : Nat) : (s.advanceTo t).table = s.table := rfl
@[simp] theorem advanceTo_slot (s : State) (t : Nat) (j : SlotIx) : (s.advanceTo t).slot j = s.slot j := rfl
@[simp] theorem advanceTo_changeSet (s : State) (t : Nat) : (s.advanceTo t).changeSet = s.changeSet := rfl
@[simp] theorem advanceTo_ports (s : State) (t : Nat) : (s.advanceTo t).ports = s.ports := rfl
@[simp] theorem advanceTo_port (s : State) (t : Nat) (r : Port) : (s.advanceTo t).port r = s.port r := rfl
@[simp] theorem advanceTo_segments (s : State) (t : Nat) : (s.advanceTo t).segments = s.segments := rfl
@[simp] theorem advanceTo_seg (s : State) (t : Nat) (h : SegIx) : (s.advanceTo t).seg h = s.seg h := rfl
@[simp] theorem advanceTo_interp (s : State) (t : Nat) : (s.advanceTo t).interp = s.interp := rfl
@[simp] theorem advanceTo_interpOf (s : State) (t : Nat) (r : Port) : (s.advanceTo t).interpOf r = s.interpOf r := rfl
@[simp] theorem advanceTo_alertMask (s : State) (t : Nat) : (s.advanceTo t).alertMask = s.alertMask := rfl
@[simp] theorem advanceTo_idleLimit (s : State) (t : Nat) : (s.advanceTo t).idleLimit = s.idleLimit := rfl
@[simp] theorem advanceTo_notices (s : State) (t : Nat) : (s.advanceTo t).notices = s.notices := rfl
@[simp] theorem advanceTo_note (s : State) (t : Nat) (c : Kind) : (s.advanceTo t).note c = s.note c := rfl
@[simp] theorem advanceTo_alertLow (s : State) (t : Nat) : (s.advanceTo t).alertLow = s.alertLow := rfl
@[simp] theorem advanceTo_pending (s : State) (t : Nat) : (s.advanceTo t).pending = s.pending := rfl
theorem advanceTo_now (s : State) (t : Nat) : (s.advanceTo t).now = max s.now t := rfl

/-! ### withNotices -/

@[simp] theorem withNotices_now (s : State) (n : Vector Note 8) : (s.withNotices n).now = s.now := rfl
@[simp] theorem withNotices_straps (s : State) (n : Vector Note 8) : (s.withNotices n).straps = s.straps := rfl
@[simp] theorem withNotices_table (s : State) (n : Vector Note 8) : (s.withNotices n).table = s.table := rfl
@[simp] theorem withNotices_slot (s : State) (n : Vector Note 8) (j : SlotIx) : (s.withNotices n).slot j = s.slot j := rfl
@[simp] theorem withNotices_changeSet (s : State) (n : Vector Note 8) : (s.withNotices n).changeSet = s.changeSet := rfl
@[simp] theorem withNotices_ports (s : State) (n : Vector Note 8) : (s.withNotices n).ports = s.ports := rfl
@[simp] theorem withNotices_port (s : State) (n : Vector Note 8) (r : Port) : (s.withNotices n).port r = s.port r := rfl
@[simp] theorem withNotices_segments (s : State) (n : Vector Note 8) : (s.withNotices n).segments = s.segments := rfl
@[simp] theorem withNotices_seg (s : State) (n : Vector Note 8) (h : SegIx) : (s.withNotices n).seg h = s.seg h := rfl
@[simp] theorem withNotices_interp (s : State) (n : Vector Note 8) : (s.withNotices n).interp = s.interp := rfl
@[simp] theorem withNotices_interpOf (s : State) (n : Vector Note 8) (r : Port) : (s.withNotices n).interpOf r = s.interpOf r := rfl
@[simp] theorem withNotices_alertMask (s : State) (n : Vector Note 8) : (s.withNotices n).alertMask = s.alertMask := rfl
@[simp] theorem withNotices_idleLimit (s : State) (n : Vector Note 8) : (s.withNotices n).idleLimit = s.idleLimit := rfl
@[simp] theorem withNotices_pending (s : State) (n : Vector Note 8) : (s.withNotices n).pending = s.pending := rfl

/-! ### raise -/

@[simp] theorem raise_now (s : State) (n : Notice) : (s.raise n).now = s.now := rfl
@[simp] theorem raise_straps (s : State) (n : Notice) : (s.raise n).straps = s.straps := rfl
@[simp] theorem raise_table (s : State) (n : Notice) : (s.raise n).table = s.table := rfl
@[simp] theorem raise_slot (s : State) (n : Notice) (j : SlotIx) : (s.raise n).slot j = s.slot j := rfl
@[simp] theorem raise_changeSet (s : State) (n : Notice) : (s.raise n).changeSet = s.changeSet := rfl
@[simp] theorem raise_ports (s : State) (n : Notice) : (s.raise n).ports = s.ports := rfl
@[simp] theorem raise_port (s : State) (n : Notice) (r : Port) : (s.raise n).port r = s.port r := rfl
@[simp] theorem raise_segments (s : State) (n : Notice) : (s.raise n).segments = s.segments := rfl
@[simp] theorem raise_seg (s : State) (n : Notice) (h : SegIx) : (s.raise n).seg h = s.seg h := rfl
@[simp] theorem raise_interp (s : State) (n : Notice) : (s.raise n).interp = s.interp := rfl
@[simp] theorem raise_interpOf (s : State) (n : Notice) (r : Port) : (s.raise n).interpOf r = s.interpOf r := rfl
@[simp] theorem raise_alertMask (s : State) (n : Notice) : (s.raise n).alertMask = s.alertMask := rfl
@[simp] theorem raise_idleLimit (s : State) (n : Notice) : (s.raise n).idleLimit = s.idleLimit := rfl
@[simp] theorem raise_pending (s : State) (n : Notice) : (s.raise n).pending = s.pending := rfl

/-! ### clearKinds -/

@[simp] theorem clearKinds_now (s : State) (mask : Byte) : (s.clearKinds mask).now = s.now := rfl
@[simp] theorem clearKinds_straps (s : State) (mask : Byte) : (s.clearKinds mask).straps = s.straps := rfl
@[simp] theorem clearKinds_table (s : State) (mask : Byte) : (s.clearKinds mask).table = s.table := rfl
@[simp] theorem clearKinds_slot (s : State) (mask : Byte) (j : SlotIx) : (s.clearKinds mask).slot j = s.slot j := rfl
@[simp] theorem clearKinds_changeSet (s : State) (mask : Byte) : (s.clearKinds mask).changeSet = s.changeSet := rfl
@[simp] theorem clearKinds_ports (s : State) (mask : Byte) : (s.clearKinds mask).ports = s.ports := rfl
@[simp] theorem clearKinds_port (s : State) (mask : Byte) (r : Port) : (s.clearKinds mask).port r = s.port r := rfl
@[simp] theorem clearKinds_segments (s : State) (mask : Byte) : (s.clearKinds mask).segments = s.segments := rfl
@[simp] theorem clearKinds_seg (s : State) (mask : Byte) (h : SegIx) : (s.clearKinds mask).seg h = s.seg h := rfl
@[simp] theorem clearKinds_interp (s : State) (mask : Byte) : (s.clearKinds mask).interp = s.interp := rfl
@[simp] theorem clearKinds_interpOf (s : State) (mask : Byte) (r : Port) : (s.clearKinds mask).interpOf r = s.interpOf r := rfl
@[simp] theorem clearKinds_alertMask (s : State) (mask : Byte) : (s.clearKinds mask).alertMask = s.alertMask := rfl
@[simp] theorem clearKinds_idleLimit (s : State) (mask : Byte) : (s.clearKinds mask).idleLimit = s.idleLimit := rfl
@[simp] theorem clearKinds_pending (s : State) (mask : Byte) : (s.clearKinds mask).pending = s.pending := rfl

/-! ### emptyNotices -/

@[simp] theorem emptyNotices_now (s : State) : (s.emptyNotices).now = s.now := rfl
@[simp] theorem emptyNotices_straps (s : State) : (s.emptyNotices).straps = s.straps := rfl
@[simp] theorem emptyNotices_table (s : State) : (s.emptyNotices).table = s.table := rfl
@[simp] theorem emptyNotices_slot (s : State) (j : SlotIx) : (s.emptyNotices).slot j = s.slot j := rfl
@[simp] theorem emptyNotices_changeSet (s : State) : (s.emptyNotices).changeSet = s.changeSet := rfl
@[simp] theorem emptyNotices_ports (s : State) : (s.emptyNotices).ports = s.ports := rfl
@[simp] theorem emptyNotices_port (s : State) (r : Port) : (s.emptyNotices).port r = s.port r := rfl
@[simp] theorem emptyNotices_segments (s : State) : (s.emptyNotices).segments = s.segments := rfl
@[simp] theorem emptyNotices_seg (s : State) (h : SegIx) : (s.emptyNotices).seg h = s.seg h := rfl
@[simp] theorem emptyNotices_interp (s : State) : (s.emptyNotices).interp = s.interp := rfl
@[simp] theorem emptyNotices_interpOf (s : State) (r : Port) : (s.emptyNotices).interpOf r = s.interpOf r := rfl
@[simp] theorem emptyNotices_alertMask (s : State) : (s.emptyNotices).alertMask = s.alertMask := rfl
@[simp] theorem emptyNotices_idleLimit (s : State) : (s.emptyNotices).idleLimit = s.idleLimit := rfl
@[simp] theorem emptyNotices_pending (s : State) : (s.emptyNotices).pending = s.pending := rfl

/-! ### withAlertMask -/

@[simp] theorem withAlertMask_now (s : State) (mask : Byte) : (s.withAlertMask mask).now = s.now := rfl
@[simp] theorem withAlertMask_straps (s : State) (mask : Byte) : (s.withAlertMask mask).straps = s.straps := rfl
@[simp] theorem withAlertMask_table (s : State) (mask : Byte) : (s.withAlertMask mask).table = s.table := rfl
@[simp] theorem withAlertMask_slot (s : State) (mask : Byte) (j : SlotIx) : (s.withAlertMask mask).slot j = s.slot j := rfl
@[simp] theorem withAlertMask_changeSet (s : State) (mask : Byte) : (s.withAlertMask mask).changeSet = s.changeSet := rfl
@[simp] theorem withAlertMask_ports (s : State) (mask : Byte) : (s.withAlertMask mask).ports = s.ports := rfl
@[simp] theorem withAlertMask_port (s : State) (mask : Byte) (r : Port) : (s.withAlertMask mask).port r = s.port r := rfl
@[simp] theorem withAlertMask_segments (s : State) (mask : Byte) : (s.withAlertMask mask).segments = s.segments := rfl
@[simp] theorem withAlertMask_seg (s : State) (mask : Byte) (h : SegIx) : (s.withAlertMask mask).seg h = s.seg h := rfl
@[simp] theorem withAlertMask_interp (s : State) (mask : Byte) : (s.withAlertMask mask).interp = s.interp := rfl
@[simp] theorem withAlertMask_interpOf (s : State) (mask : Byte) (r : Port) : (s.withAlertMask mask).interpOf r = s.interpOf r := rfl
@[simp] theorem withAlertMask_idleLimit (s : State) (mask : Byte) : (s.withAlertMask mask).idleLimit = s.idleLimit := rfl
@[simp] theorem withAlertMask_notices (s : State) (mask : Byte) : (s.withAlertMask mask).notices = s.notices := rfl
@[simp] theorem withAlertMask_note (s : State) (mask : Byte) (c : Kind) : (s.withAlertMask mask).note c = s.note c := rfl
@[simp] theorem withAlertMask_pending (s : State) (mask : Byte) : (s.withAlertMask mask).pending = s.pending := rfl
/-! ### What is read after an update -/

@[simp] theorem port_setPort_same (s : State) (p : Port) (q : PortCtl) : (s.setPort p q).port p = q :=
  Both.get_set_same _ _ _

theorem port_setPort (s : State) (p r : Port) (q : PortCtl) : (s.setPort p q).port r = if r = p then q else s.port r :=
  Both.get_set _ _ _ _

theorem port_onPort (s : State) (p r : Port) (f : PortCtl → PortCtl) :
    (s.onPort p f).port r = if r = p then f (s.port p) else s.port r := Both.get_set _ _ _ _

@[simp] theorem port_onPort_same (s : State) (p : Port) (f : PortCtl → PortCtl) : (s.onPort p f).port p = f (s.port p) :=
  Both.get_set_same _ _ _

@[simp] theorem setPort_port (s : State) (p : Port) : s.setPort p (s.port p) = s := by
  cases s; simp [setPort, port]

@[simp] theorem interpOf_setInterp_same (s : State) (p : Port) (x : InterpPort) : (s.setInterp p x).interpOf p = x :=
  Both.get_set_same _ _ _

theorem interpOf_setInterp (s : State) (p r : Port) (x : InterpPort) :
    (s.setInterp p x).interpOf r = if r = p then x else s.interpOf r := Both.get_set _ _ _ _

theorem seg_setSeg (s : State) (g h : SegIx) (x : Segment) : (s.setSeg g x).seg h = if h = g then x else s.seg h := by
  have : (g.val = h.val) ↔ h = g := by rw [eq_comm, ← Fin.ext_iff]
  simp [seg, setSeg, Vector.get_eq_getElem, Vector.getElem_set, this]

@[simp] theorem seg_setSeg_same (s : State) (g : SegIx) (x : Segment) : (s.setSeg g x).seg g = x := by simp [seg_setSeg]

theorem slot_setSlot (s : State) (k j : SlotIx) (x : Slot) : (s.setSlot k x).slot j = if j = k then x else s.slot j := by
  have : (k.val = j.val) ↔ j = k := by rw [eq_comm, ← Fin.ext_iff]
  simp [slot, setSlot, Vector.get_eq_getElem, Vector.getElem_set, this]

@[simp] theorem slot_setSlot_same (s : State) (k : SlotIx) (x : Slot) : (s.setSlot k x).slot k = x := by simp [slot_setSlot]

@[simp] theorem slot_mapSlots (s : State) (f : Slot → Slot) (k : SlotIx) : (s.mapSlots f).slot k = f (s.slot k) := by
  simp [slot, mapSlots, Vector.get_eq_getElem]

/-! ### Raises and deliveries -/

/-- Raises change the notice set and ALERT and nothing else. -/
theorem raiseAll_only (s : State) (ns : List Notice) :
    ∃ n a, s.raiseAll ns = { s with notices := n, alertLow := a } := by
  induction ns generalizing s with
  | nil => exact ⟨s.notices, s.alertLow, rfl⟩
  | cons n ns ih =>
    obtain ⟨x, a, h⟩ := ih (s.raise n)
    exact ⟨x, a, by simpa [raiseAll, raise, withNotices] using h⟩

/-- A raise on a condition changes the notice set and ALERT and nothing else. -/
theorem raiseIf_only (s : State) (b : Bool) (n : Notice) :
    ∃ x a, s.raiseIf b n = { s with notices := x, alertLow := a } := by
  cases b
  · exact ⟨s.notices, s.alertLow, rfl⟩
  · exact ⟨_, _, rfl⟩

@[simp] theorem raiseIf_true (s : State) (n : Notice) : s.raiseIf true n = s.raise n := rfl

@[simp] theorem raiseIf_false (s : State) (n : Notice) : s.raiseIf false n = s := rfl

/-- A delivery changes the messages under way to the ports and nothing else. -/
theorem deliver_only (s : State) (g : SegIx) (sends : List (Port × PortMsg)) :
    ∃ ps, s.deliver g sends = { s with ports := ps } := by
  induction sends generalizing s with
  | nil => exact ⟨s.ports, rfl⟩
  | cons m ms ih =>
    obtain ⟨ps, h⟩ := ih (s.onPort m.1 fun q => { q with fromSegments := q.fromSegments ++ [(g, m.2)] })
    exact ⟨ps, by simpa [deliver, onPort, setPort] using h⟩

/-- After a delivery a port differs in the messages under way to it only. -/
theorem deliver_port (s : State) (g : SegIx) (sends : List (Port × PortMsg)) (p : Port) :
    ∃ ms, (s.deliver g sends).port p = { s.port p with fromSegments := ms } := by
  induction sends generalizing s with
  | nil => exact ⟨(s.port p).fromSegments, rfl⟩
  | cons m ms ih =>
    obtain ⟨x, h⟩ := ih (s.onPort m.1 fun q => { q with fromSegments := q.fromSegments ++ [(g, m.2)] })
    have e : s.deliver g (m :: ms) =
        (s.onPort m.1 fun q => { q with fromSegments := q.fromSegments ++ [(g, m.2)] }).deliver g ms := rfl
    refine ⟨x, ?_⟩
    rw [e, h, port_onPort]
    by_cases c : p = m.1
    · subst c; simp
    · simp [c]

end State

end Sys2Proof.Machine
end

