-- ==== Sys2Proof/Laws/Interp.lean ====
section
/-! SUPPORT. What answering a command, taking a message and restarting leave of the state. -/

namespace Sys2Proof.Machine

namespace State

/-- A response written changes the buffer and the execution of its port, and reports completion to that port (R177, R181). -/
theorem writeResponse_only (s : State) (p : Port) (r : Result) :
    ∃ i q, s.writeResponse p r = { s with interp := i, ports := q } ∧
      ∀ u, ∃ d, q.get u = { s.ports.get u with ownDone := d } := by
  refine ⟨_, _, rfl, fun u => ?_⟩
  by_cases e : u = p
  · subst e; exact ⟨true, Both.get_set_same _ _ _⟩
  · refine ⟨(s.ports.get u).ownDone, ?_⟩
    exact (Both.get_set _ _ _ _).trans (if_neg e)

/-- An answered command changes the interpreter and reports completion, and nothing else (R177). -/
theorem reply_only (s : State) (p : Port) (t : ReplyTime) (r : Result) :
    ∃ i q, s.reply p t r = { s with interp := i, ports := q } ∧
      ∀ u, ∃ d, q.get u = { s.ports.get u with ownDone := d } := by
  cases t
  · exact writeResponse_only s p r
  · exact ⟨_, s.ports, rfl, fun u => ⟨_, rfl⟩⟩

/-- A response that awaits its write changes no more than an answered command (R177). -/
theorem writeWaiting_only (s : State) (p : Port) :
    ∃ i q, s.writeWaiting p = { s with interp := i, ports := q } ∧
      ∀ u, ∃ d, q.get u = { s.ports.get u with ownDone := d } := by
  unfold writeWaiting
  split
  · exact writeResponse_only s p _
  · exact ⟨s.interp, s.ports, rfl, fun u => ⟨_, rfl⟩⟩

/-- A message taken changes its port only. -/
theorem takeMessage_only (s : State) (p : Port) (g : SegIx) (f : PortMsg → PortCtl → Option PortCtl) :
    s.takeMessage p g f = s ∨ ∃ m rest q, f m { s.port p with fromSegments := rest } = some q ∧
      s.takeMessage p g f = s.setPort p q := by
  unfold takeMessage
  split
  · split
    · rename_i m rest _ _ q e; exact .inr ⟨m, rest, q, e, rfl⟩
    · exact .inl rfl
  · exact .inl rfl

/-- A frame taken changes the interpreter and the conditions and reports of the two waits, and nothing else (R177, R192). -/
theorem takeFrame_only (s : State) (p : Port) (f : Frame) :
    ∃ i q, s.takeFrame p f = { s with interp := i, ports := q } ∧
      ∀ u, ∃ w d e h, q.get u = { s.ports.get u with ownDone := d, restartWait := w, restartDone := e, handedOver := h } := by
  have hb : ∀ u, ((s.onPort p fun q => { q with handedOver := none }).ports.get u) =
      if u = p then { s.ports.get p with handedOver := none } else s.ports.get u := fun u => Both.get_set _ _ _ _
  unfold takeFrame
  simp only
  split
  · obtain ⟨i, q, e, h⟩ := writeResponse_only (s.onPort p fun q => { q with handedOver := none }) p (.done ‹_› [])
    refine ⟨i, q, by rw [e]; rfl, fun u => ?_⟩
    obtain ⟨d, h⟩ := h u
    rw [h, hb]
    split
    · rename_i e; subst e; exact ⟨_, d, _, none, rfl⟩
    · exact ⟨_, d, _, _, rfl⟩
  · split
    · refine ⟨_, _, rfl, fun u => ?_⟩
      simp only [onPort_ports, setInterp_ports, Both.get_set, port]
      by_cases e : u = otherPort p
      · subst e
        have : otherPort p ≠ p := by cases p <;> simp [otherPort]
        rw [if_pos rfl, if_neg this]
        exact ⟨true, _, false, _, rfl⟩
      · rw [if_neg e]
        split
        · rename_i e; subst e; exact ⟨_, _, _, none, rfl⟩
        · exact ⟨_, _, _, _, rfl⟩
    all_goals
      refine ⟨_, _, rfl, fun u => ?_⟩
      rw [hb]
      split
      · rename_i e; subst e; exact ⟨_, _, _, none, rfl⟩
      · exact ⟨_, _, _, _, rfl⟩

/-! ### The steps of RESTART -/

@[simp] theorem restartTable_now (s : State) (straps : BitVec 2) : (s.restartTable straps).now = s.now := rfl
@[simp] theorem restartTable_ports (s : State) (straps : BitVec 2) : (s.restartTable straps).ports = s.ports := rfl
@[simp] theorem restartTable_segments (s : State) (straps : BitVec 2) : (s.restartTable straps).segments = s.segments := rfl
@[simp] theorem restartTable_interp (s : State) (straps : BitVec 2) : (s.restartTable straps).interp = s.interp := rfl
@[simp] theorem restartTable_alertMask (s : State) (straps : BitVec 2) : (s.restartTable straps).alertMask = s.alertMask := rfl
@[simp] theorem restartTable_idleLimit (s : State) (straps : BitVec 2) : (s.restartTable straps).idleLimit = s.idleLimit := rfl
@[simp] theorem restartTable_notices (s : State) (straps : BitVec 2) : (s.restartTable straps).notices = s.notices := rfl
@[simp] theorem restartTable_alertLow (s : State) (straps : BitVec 2) : (s.restartTable straps).alertLow = s.alertLow := rfl
@[simp] theorem restartTable_pending (s : State) (straps : BitVec 2) : (s.restartTable straps).pending = s.pending := rfl
@[simp] theorem atRestartStep_now (s : State) (p : Port) (n : Nat) (g : BitVec 8) (a : Byte) :
    (s.atRestartStep p n g a).now = s.now := rfl
@[simp] theorem atRestartStep_straps (s : State) (p : Port) (n : Nat) (g : BitVec 8) (a : Byte) :
    (s.atRestartStep p n g a).straps = s.straps := rfl
@[simp] theorem atRestartStep_table (s : State) (p : Port) (n : Nat) (g : BitVec 8) (a : Byte) :
    (s.atRestartStep p n g a).table = s.table := rfl
@[simp] theorem atRestartStep_changeSet (s : State) (p : Port) (n : Nat) (g : BitVec 8) (a : Byte) :
    (s.atRestartStep p n g a).changeSet = s.changeSet := rfl
@[simp] theorem atRestartStep_ports (s : State) (p : Port) (n : Nat) (g : BitVec 8) (a : Byte) :
    (s.atRestartStep p n g a).ports = s.ports := rfl
@[simp] theorem atRestartStep_segments (s : State) (p : Port) (n : Nat) (g : BitVec 8) (a : Byte) :
    (s.atRestartStep p n g a).segments = s.segments := rfl
@[simp] theorem atRestartStep_alertMask (s : State) (p : Port) (n : Nat) (g : BitVec 8) (a : Byte) :
    (s.atRestartStep p n g a).alertMask = s.alertMask := rfl
@[simp] theorem atRestartStep_idleLimit (s : State) (p : Port) (n : Nat) (g : BitVec 8) (a : Byte) :
    (s.atRestartStep p n g a).idleLimit = s.idleLimit := rfl
@[simp] theorem atRestartStep_notices (s : State) (p : Port) (n : Nat) (g : BitVec 8) (a : Byte) :
    (s.atRestartStep p n g a).notices = s.notices := rfl
@[simp] theorem atRestartStep_alertLow (s : State) (p : Port) (n : Nat) (g : BitVec 8) (a : Byte) :
    (s.atRestartStep p n g a).alertLow = s.alertLow := rfl
@[simp] theorem atRestartStep_pending (s : State) (p : Port) (n : Nat) (g : BitVec 8) (a : Byte) :
    (s.atRestartStep p n g a).pending = s.pending := rfl
@[simp] theorem restartStep1_now (s : State) (p : Port) : (s.restartStep1 p).now = s.now := rfl
@[simp] theorem restartStep1_straps (s : State) (p : Port) : (s.restartStep1 p).straps = s.straps := rfl
@[simp] theorem restartStep1_table (s : State) (p : Port) : (s.restartStep1 p).table = s.table := rfl
@[simp] theorem restartStep1_changeSet (s : State) (p : Port) : (s.restartStep1 p).changeSet = s.changeSet := rfl
@[simp] theorem restartStep1_segments (s : State) (p : Port) : (s.restartStep1 p).segments = s.segments := rfl
@[simp] theorem restartStep1_interp (s : State) (p : Port) : (s.restartStep1 p).interp = s.interp := rfl
@[simp] theorem restartStep1_alertMask (s : State) (p : Port) : (s.restartStep1 p).alertMask = s.alertMask := rfl
@[simp] theorem restartStep1_idleLimit (s : State) (p : Port) : (s.restartStep1 p).idleLimit = s.idleLimit := rfl
@[simp] theorem restartStep1_notices (s : State) (p : Port) : (s.restartStep1 p).notices = s.notices := rfl
@[simp] theorem restartStep1_alertLow (s : State) (p : Port) : (s.restartStep1 p).alertLow = s.alertLow := rfl
@[simp] theorem restartStep1_pending (s : State) (p : Port) : (s.restartStep1 p).pending = s.pending := rfl
@[simp] theorem restartStep5_now (s : State) (p : Port) (g : BitVec 8) (a : Byte) :
    (s.restartStep5 p g a).now = s.now := rfl
@[simp] theorem restartStep5_straps (s : State) (p : Port) (g : BitVec 8) (a : Byte) :
    (s.restartStep5 p g a).straps = s.straps := rfl
@[simp] theorem restartStep5_table (s : State) (p : Port) (g : BitVec 8) (a : Byte) :
    (s.restartStep5 p g a).table = s.table := rfl
@[simp] theorem restartStep5_changeSet (s : State) (p : Port) (g : BitVec 8) (a : Byte) :
    (s.restartStep5 p g a).changeSet = s.changeSet := rfl
@[simp] theorem restartStep5_segments (s : State) (p : Port) (g : BitVec 8) (a : Byte) :
    (s.restartStep5 p g a).segments = s.segments := rfl
@[simp] theorem restartStep5_alertMask (s : State) (p : Port) (g : BitVec 8) (a : Byte) :
    (s.restartStep5 p g a).alertMask = s.alertMask := rfl
@[simp] theorem restartStep5_idleLimit (s : State) (p : Port) (g : BitVec 8) (a : Byte) :
    (s.restartStep5 p g a).idleLimit = s.idleLimit := rfl
@[simp] theorem restartStep5_notices (s : State) (p : Port) (g : BitVec 8) (a : Byte) :
    (s.restartStep5 p g a).notices = s.notices := rfl
@[simp] theorem restartStep5_alertLow (s : State) (p : Port) (g : BitVec 8) (a : Byte) :
    (s.restartStep5 p g a).alertLow = s.alertLow := rfl
@[simp] theorem restartStep5_pending (s : State) (p : Port) (g : BitVec 8) (a : Byte) :
    (s.restartStep5 p g a).pending = s.pending := rfl

/-- Segment step and restart in order: what a property kept by each segment's restart keeps over the whole step (R127). -/
theorem restartStep2_induct {P : State → Prop} (hP : ∀ s g, P s → P (s.onSegment g (s.seg g).takeRestart)) {s : State}
    (h : P s) : P s.restartStep2 := by
  unfold restartStep2
  generalize List.finRange 8 = l
  induction l generalizing s with
  | nil => exact h
  | cons g l ih => exact ih (hP s g h)

/-- A property that each step's effect and the record of progress keep is kept by the next step (R192). -/
theorem restartStep_induct {P : State → Prop} {p : Port} {straps : BitVec 2}
    (ha : ∀ s n g a, P s → P (s.atRestartStep p n g a)) (h1 : ∀ s, P s → P (s.restartStep1 p))
    (h2 : ∀ s g, P s → P (s.onSegment g (s.seg g).takeRestart)) (h3 : ∀ s, P s → P (s.restartTable straps))
    (h4 : ∀ s, P s → P s.emptyNotices) (h5 : ∀ s g a, P s → P (s.restartStep5 p g a)) {s : State} (h : P s) :
    P (s.restartStep p straps) := by
  have k1 := h1 s h
  have k2 := restartStep2_induct h2 h
  have k3 := h3 s h
  have k4 := h4 s h
  unfold restartStep
  generalize s.restartStep1 p = t1 at *
  generalize s.restartStep2 = t2 at *
  generalize s.restartTable straps = t3 at *
  generalize s.emptyNotices = t4 at *
  split
  · exact h
  · exact ha _ _ _ _ k1
  · exact ha _ _ _ _ k2
  · exact ha _ _ _ _ k3
  · exact ha _ _ _ _ k4
  · exact h5 _ _ _ h

/-- A property that each of the five steps keeps is kept by the steps that are left (R192). -/
theorem restartWhole_induct {P : State → Prop} {p : Port} {straps : BitVec 2}
    (hP : ∀ s, P s → P (s.restartStep p straps)) {s : State} (h : P s) : P (s.restartWhole p straps) := by
  unfold restartWhole
  generalize List.range 5 = l
  induction l generalizing s with
  | nil => exact h
  | cons g l ih => exact ih (hP s h)

end State

end Sys2Proof.Machine
end

