-- ==== Sys2Proof/Laws/Notices.lean ====
section
/-! SUPPORT. Every operation of the notice unit keeps the notice set and ALERT sound. -/

namespace Sys2Proof.Machine

theorem Kind.number_injective {a b : Kind} : a.number = b.number ↔ a = b := by
  constructor
  · cases a <;> cases b <;> simp [Kind.number]
  · rintro rfl; rfl

namespace State

/-- A notice set replaced at one kind. -/
theorem note_set (s : State) (k j : Kind) (x : Note) :
    (s.withNotices (s.notices.set k.number.val x k.number.isLt)).note j = if j = k then x else s.note j := by
  have : (k.number.val = j.number.val) ↔ j = k := by rw [eq_comm, ← Fin.ext_iff, Kind.number_injective]
  simp [withNotices, note, Vector.get_eq_getElem, Vector.getElem_set, this]

/-- What a raise leaves of each kind (R200). -/
theorem note_raise (s : State) (n : Notice) (j : Kind) :
    (s.raise n).note j = if j = n.kind then (s.note j).raised n.member else s.note j := by
  unfold raise
  rw [note_set]
  split
  · rename_i e; rw [e]
  · rfl

/-- What a clear leaves of each kind (R201). -/
theorem note_clearKinds (s : State) (mask : Byte) (j : Kind) :
    (s.clearKinds mask).note j = if maskSelects mask j.number then Note.absent else s.note j := by
  simp [clearKinds, withNotices, note, Vector.get_eq_getElem]

@[simp] theorem note_emptyNotices (s : State) (j : Kind) : s.emptyNotices.note j = Note.absent := by
  simp [emptyNotices, withNotices, note, Vector.get_eq_getElem]

end State

/-- The number of a raise's member lies in the universe of its kind (9.1). -/
theorem member_in_universe (n : Notice) : memberBit n.member &&& ~~~n.kind.universe = 0#64 := by
  cases n <;> simp only [Notice.kind, Notice.member, Kind.universe]
  case miss p => cases p <;> decide
  case holdTimeout p => cases p <;> decide
  case changesetExpired p => cases p <;> decide
  case segmentFault g => revert g; decide
  case segmentCleared g => revert g; decide
  all_goals simp

theorem memberBit_ne_zero (m : Fin 64) : memberBit m ≠ 0#64 := by
  intro h
  have : (memberBit m).getLsbD m.val = (0#64).getLsbD m.val := by rw [h]
  simp [memberBit] at this

theorem raised_ok {x : Note} {u : BitVec 64} (h : x.members &&& ~~~u = 0#64) (m : Fin 64)
    (hm : memberBit m &&& ~~~u = 0#64) :
    ((x.raised m).present = true ↔ (x.raised m).members ≠ 0#64) ∧ (x.raised m).members &&& ~~~u = 0#64 := by
  constructor
  · simp only [Note.raised, true_iff]
    intro e
    have : (x.members ||| memberBit m).getLsbD m.val = (0#64).getLsbD m.val := by rw [e]
    simp [memberBit] at this
  · simp only [Note.raised]
    have : (x.members ||| memberBit m) &&& ~~~u = (x.members &&& ~~~u) ||| (memberBit m &&& ~~~u) := by
      ext i; simp only [BitVec.getElem_and, BitVec.getElem_or, Bool.and_or_distrib_right]
    rw [this, h, hm]; rfl

/-- Soundness of the notices reads the notice set, the mask and ALERT only. -/
theorem noticesOk_congr {s t : State} (h : noticesOk s) (hn : t.notices = s.notices) (hm : t.alertMask = s.alertMask)
    (ha : t.alertLow = s.alertLow) : noticesOk t := by
  refine ⟨fun k => ?_, ?_⟩
  · have := h.1 k; simpa [noteOk, State.note, hn] using this
  · rw [ha, hn, hm]; exact h.2

theorem noticesOk_raise {s : State} (h : noticesOk s) (n : Notice) : noticesOk (s.raise n) := by
  refine ⟨fun k => ?_, rfl⟩
  unfold noteOk
  rw [State.note_raise]
  split
  · rename_i e
    subst e
    exact raised_ok (h.1 _).2 _ (member_in_universe n)
  · exact h.1 k

theorem noticesOk_raiseAll {s : State} (h : noticesOk s) (ns : List Notice) : noticesOk (s.raiseAll ns) := by
  induction ns generalizing s with
  | nil => exact h
  | cons n ns ih => exact ih (noticesOk_raise h n)

theorem noticesOk_raiseIf {s : State} (h : noticesOk s) (b : Bool) (n : Notice) : noticesOk (s.raiseIf b n) := by
  cases b
  · exact h
  · exact noticesOk_raise h n

theorem absent_ok (u : BitVec 64) :
    (Note.absent.present = true ↔ Note.absent.members ≠ 0#64) ∧ Note.absent.members &&& ~~~u = 0#64 := by
  simp [Note.absent]

theorem noticesOk_clearKinds {s : State} (h : noticesOk s) (mask : Byte) : noticesOk (s.clearKinds mask) := by
  refine ⟨fun k => ?_, rfl⟩
  unfold noteOk
  rw [State.note_clearKinds]
  split
  · exact absent_ok _
  · exact h.1 k

theorem noticesOk_emptyNotices (s : State) : noticesOk s.emptyNotices := by
  refine ⟨fun k => ?_, rfl⟩
  unfold noteOk
  rw [State.note_emptyNotices]
  exact absent_ok _

theorem noticesOk_withAlertMask {s : State} (h : noticesOk s) (mask : Byte) : noticesOk (s.withAlertMask mask) :=
  ⟨fun k => h.1 k, rfl⟩

theorem noticesOk_onSegment {s : State} (h : noticesOk s) (g : SegIx) (r : SegStep) : noticesOk (s.onSegment g r) := by
  unfold State.onSegment
  apply noticesOk_raiseAll
  obtain ⟨ps, e⟩ := State.deliver_only (s.setSeg g (r.seg.timed s.now)) g r.sends
  rw [e]
  exact noticesOk_congr h rfl rfl rfl

end Sys2Proof.Machine
end

