-- ==== Sys2Proof/Laws/PortFields.lean ====
section
/-! SUPPORT. What each operation of a port controller leaves and changes, one lemma for each field of the context. -/

namespace Sys2Proof.Machine

namespace PortCtl

/-! ### sendTable -/

@[simp] theorem sendTable_phase (q : PortCtl) (m : TableMsg) : (q.sendTable m).phase = q.phase := rfl
@[simp] theorem sendTable_direction (q : PortCtl) (m : TableMsg) : (q.sendTable m).direction = q.direction := rfl
@[simp] theorem sendTable_bound (q : PortCtl) (m : TableMsg) : (q.sendTable m).bound = q.bound := rfl
@[simp] theorem sendTable_link (q : PortCtl) (m : TableMsg) : (q.sendTable m).link = q.link := rfl
@[simp] theorem sendTable_count (q : PortCtl) (m : TableMsg) : (q.sendTable m).count = q.count := rfl
@[simp] theorem sendTable_declared (q : PortCtl) (m : TableMsg) : (q.sendTable m).declared = q.declared := rfl
@[simp] theorem sendTable_frame (q : PortCtl) (m : TableMsg) : (q.sendTable m).frame = q.frame := rfl
@[simp] theorem sendTable_overflow (q : PortCtl) (m : TableMsg) : (q.sendTable m).overflow = q.overflow := rfl
@[simp] theorem sendTable_tenBit (q : PortCtl) (m : TableMsg) : (q.sendTable m).tenBit = q.tenBit := rfl
@[simp] theorem sendTable_ownWait (q : PortCtl) (m : TableMsg) : (q.sendTable m).ownWait = q.ownWait := rfl
@[simp] theorem sendTable_restartWait (q : PortCtl) (m : TableMsg) : (q.sendTable m).restartWait = q.restartWait := rfl
@[simp] theorem sendTable_hold (q : PortCtl) (m : TableMsg) : (q.sendTable m).hold = q.hold := rfl
@[simp] theorem sendTable_holdLimit (q : PortCtl) (m : TableMsg) : (q.sendTable m).holdLimit = q.holdLimit := rfl
@[simp] theorem sendTable_requests (q : PortCtl) (m : TableMsg) : (q.sendTable m).requests = q.requests := rfl
@[simp] theorem sendTable_fetched (q : PortCtl) (m : TableMsg) : (q.sendTable m).fetched = q.fetched := rfl
@[simp] theorem sendTable_shown (q : PortCtl) (m : TableMsg) : (q.sendTable m).shown = q.shown := rfl
@[simp] theorem sendTable_held (q : PortCtl) (m : TableMsg) : (q.sendTable m).held = q.held := rfl
@[simp] theorem sendTable_high (q : PortCtl) (m : TableMsg) : (q.sendTable m).high = q.high := rfl
@[simp] theorem sendTable_awaiting (q : PortCtl) (m : TableMsg) : (q.sendTable m).awaiting = q.awaiting := rfl
@[simp] theorem sendTable_stale (q : PortCtl) (m : TableMsg) : (q.sendTable m).stale = q.stale := rfl
@[simp] theorem sendTable_lastAnswer (q : PortCtl) (m : TableMsg) : (q.sendTable m).lastAnswer = q.lastAnswer := rfl
@[simp] theorem sendTable_toTable (q : PortCtl) (m : TableMsg) : (q.sendTable m).toTable = q.toTable ++ [m] := rfl
@[simp] theorem sendTable_fromTable (q : PortCtl) (m : TableMsg) : (q.sendTable m).fromTable = q.fromTable := rfl
@[simp] theorem sendTable_toSegments (q : PortCtl) (m : TableMsg) : (q.sendTable m).toSegments = q.toSegments := rfl
@[simp] theorem sendTable_fromSegments (q : PortCtl) (m : TableMsg) : (q.sendTable m).fromSegments = q.fromSegments := rfl
@[simp] theorem sendTable_handedOver (q : PortCtl) (m : TableMsg) : (q.sendTable m).handedOver = q.handedOver := rfl
@[simp] theorem sendTable_ownDone (q : PortCtl) (m : TableMsg) : (q.sendTable m).ownDone = q.ownDone := rfl
@[simp] theorem sendTable_restartDone (q : PortCtl) (m : TableMsg) : (q.sendTable m).restartDone = q.restartDone := rfl

/-! ### sendSegment -/

@[simp] theorem sendSegment_phase (q : PortCtl) (g : SegIx) (m : SegMsg) : (q.sendSegment g m).phase = q.phase := rfl
@[simp] theorem sendSegment_direction (q : PortCtl) (g : SegIx) (m : SegMsg) : (q.sendSegment g m).direction = q.direction := rfl
@[simp] theorem sendSegment_bound (q : PortCtl) (g : SegIx) (m : SegMsg) : (q.sendSegment g m).bound = q.bound := rfl
@[simp] theorem sendSegment_link (q : PortCtl) (g : SegIx) (m : SegMsg) : (q.sendSegment g m).link = q.link := rfl
@[simp] theorem sendSegment_count (q : PortCtl) (g : SegIx) (m : SegMsg) : (q.sendSegment g m).count = q.count := rfl
@[simp] theorem sendSegment_declared (q : PortCtl) (g : SegIx) (m : SegMsg) : (q.sendSegment g m).declared = q.declared := rfl
@[simp] theorem sendSegment_frame (q : PortCtl) (g : SegIx) (m : SegMsg) : (q.sendSegment g m).frame = q.frame := rfl
@[simp] theorem sendSegment_overflow (q : PortCtl) (g : SegIx) (m : SegMsg) : (q.sendSegment g m).overflow = q.overflow := rfl
@[simp] theorem sendSegment_tenBit (q : PortCtl) (g : SegIx) (m : SegMsg) : (q.sendSegment g m).tenBit = q.tenBit := rfl
@[simp] theorem sendSegment_ownWait (q : PortCtl) (g : SegIx) (m : SegMsg) : (q.sendSegment g m).ownWait = q.ownWait := rfl
@[simp] theorem sendSegment_restartWait (q : PortCtl) (g : SegIx) (m : SegMsg) : (q.sendSegment g m).restartWait = q.restartWait := rfl
@[simp] theorem sendSegment_hold (q : PortCtl) (g : SegIx) (m : SegMsg) : (q.sendSegment g m).hold = q.hold := rfl
@[simp] theorem sendSegment_holdLimit (q : PortCtl) (g : SegIx) (m : SegMsg) : (q.sendSegment g m).holdLimit = q.holdLimit := rfl
@[simp] theorem sendSegment_requests (q : PortCtl) (g : SegIx) (m : SegMsg) : (q.sendSegment g m).requests = q.requests := rfl
@[simp] theorem sendSegment_fetched (q : PortCtl) (g : SegIx) (m : SegMsg) : (q.sendSegment g m).fetched = q.fetched := rfl
@[simp] theorem sendSegment_shown (q : PortCtl) (g : SegIx) (m : SegMsg) : (q.sendSegment g m).shown = q.shown := rfl
@[simp] theorem sendSegment_held (q : PortCtl) (g : SegIx) (m : SegMsg) : (q.sendSegment g m).held = q.held := rfl
@[simp] theorem sendSegment_high (q : PortCtl) (g : SegIx) (m : SegMsg) : (q.sendSegment g m).high = q.high := rfl
@[simp] theorem sendSegment_awaiting (q : PortCtl) (g : SegIx) (m : SegMsg) : (q.sendSegment g m).awaiting = q.awaiting := rfl
@[simp] theorem sendSegment_stale (q : PortCtl) (g : SegIx) (m : SegMsg) : (q.sendSegment g m).stale = q.stale := rfl
@[simp] theorem sendSegment_lastAnswer (q : PortCtl) (g : SegIx) (m : SegMsg) : (q.sendSegment g m).lastAnswer = q.lastAnswer := rfl
@[simp] theorem sendSegment_toTable (q : PortCtl) (g : SegIx) (m : SegMsg) : (q.sendSegment g m).toTable = q.toTable := rfl
@[simp] theorem sendSegment_fromTable (q : PortCtl) (g : SegIx) (m : SegMsg) : (q.sendSegment g m).fromTable = q.fromTable := rfl
@[simp] theorem sendSegment_toSegments (q : PortCtl) (g : SegIx) (m : SegMsg) : (q.sendSegment g m).toSegments = q.toSegments ++ [(g, m)] := rfl
@[simp] theorem sendSegment_fromSegments (q : PortCtl) (g : SegIx) (m : SegMsg) : (q.sendSegment g m).fromSegments = q.fromSegments := rfl
@[simp] theorem sendSegment_handedOver (q : PortCtl) (g : SegIx) (m : SegMsg) : (q.sendSegment g m).handedOver = q.handedOver := rfl
@[simp] theorem sendSegment_ownDone (q : PortCtl) (g : SegIx) (m : SegMsg) : (q.sendSegment g m).ownDone = q.ownDone := rfl
@[simp] theorem sendSegment_restartDone (q : PortCtl) (g : SegIx) (m : SegMsg) : (q.sendSegment g m).restartDone = q.restartDone := rfl

/-! ### beginHold -/

@[simp] theorem beginHold_phase (q : PortCtl) (now : Nat) : (q.beginHold now).phase = q.phase := rfl
@[simp] theorem beginHold_direction (q : PortCtl) (now : Nat) : (q.beginHold now).direction = q.direction := rfl
@[simp] theorem beginHold_bound (q : PortCtl) (now : Nat) : (q.beginHold now).bound = q.bound := rfl
@[simp] theorem beginHold_link (q : PortCtl) (now : Nat) : (q.beginHold now).link = q.link := rfl
@[simp] theorem beginHold_count (q : PortCtl) (now : Nat) : (q.beginHold now).count = q.count := rfl
@[simp] theorem beginHold_declared (q : PortCtl) (now : Nat) : (q.beginHold now).declared = q.declared := rfl
@[simp] theorem beginHold_frame (q : PortCtl) (now : Nat) : (q.beginHold now).frame = q.frame := rfl
@[simp] theorem beginHold_overflow (q : PortCtl) (now : Nat) : (q.beginHold now).overflow = q.overflow := rfl
@[simp] theorem beginHold_tenBit (q : PortCtl) (now : Nat) : (q.beginHold now).tenBit = q.tenBit := rfl
@[simp] theorem beginHold_ownWait (q : PortCtl) (now : Nat) : (q.beginHold now).ownWait = q.ownWait := rfl
@[simp] theorem beginHold_restartWait (q : PortCtl) (now : Nat) : (q.beginHold now).restartWait = q.restartWait := rfl
@[simp] theorem beginHold_hold (q : PortCtl) (now : Nat) : (q.beginHold now).hold = some (now + q.holdLimit.toNat * ticksPerTenthMs) := rfl
@[simp] theorem beginHold_holdLimit (q : PortCtl) (now : Nat) : (q.beginHold now).holdLimit = q.holdLimit := rfl
@[simp] theorem beginHold_requests (q : PortCtl) (now : Nat) : (q.beginHold now).requests = q.requests := rfl
@[simp] theorem beginHold_fetched (q : PortCtl) (now : Nat) : (q.beginHold now).fetched = q.fetched := rfl
@[simp] theorem beginHold_shown (q : PortCtl) (now : Nat) : (q.beginHold now).shown = q.shown := rfl
@[simp] theorem beginHold_held (q : PortCtl) (now : Nat) : (q.beginHold now).held = q.held := rfl
@[simp] theorem beginHold_high (q : PortCtl) (now : Nat) : (q.beginHold now).high = q.high := rfl
@[simp] theorem beginHold_awaiting (q : PortCtl) (now : Nat) : (q.beginHold now).awaiting = q.awaiting := rfl
@[simp] theorem beginHold_stale (q : PortCtl) (now : Nat) : (q.beginHold now).stale = q.stale := rfl
@[simp] theorem beginHold_lastAnswer (q : PortCtl) (now : Nat) : (q.beginHold now).lastAnswer = q.lastAnswer := rfl
@[simp] theorem beginHold_toTable (q : PortCtl) (now : Nat) : (q.beginHold now).toTable = q.toTable := rfl
@[simp] theorem beginHold_fromTable (q : PortCtl) (now : Nat) : (q.beginHold now).fromTable = q.fromTable := rfl
@[simp] theorem beginHold_toSegments (q : PortCtl) (now : Nat) : (q.beginHold now).toSegments = q.toSegments := rfl
@[simp] theorem beginHold_fromSegments (q : PortCtl) (now : Nat) : (q.beginHold now).fromSegments = q.fromSegments := rfl
@[simp] theorem beginHold_handedOver (q : PortCtl) (now : Nat) : (q.beginHold now).handedOver = q.handedOver := rfl
@[simp] theorem beginHold_ownDone (q : PortCtl) (now : Nat) : (q.beginHold now).ownDone = q.ownDone := rfl
@[simp] theorem beginHold_restartDone (q : PortCtl) (now : Nat) : (q.beginHold now).restartDone = q.restartDone := rfl

/-! ### endHold -/

@[simp] theorem endHold_phase (q : PortCtl) : (q.endHold).phase = q.phase := rfl
@[simp] theorem endHold_direction (q : PortCtl) : (q.endHold).direction = q.direction := rfl
@[simp] theorem endHold_bound (q : PortCtl) : (q.endHold).bound = q.bound := rfl
@[simp] theorem endHold_link (q : PortCtl) : (q.endHold).link = q.link := rfl
@[simp] theorem endHold_count (q : PortCtl) : (q.endHold).count = q.count := rfl
@[simp] theorem endHold_declared (q : PortCtl) : (q.endHold).declared = q.declared := rfl
@[simp] theorem endHold_frame (q : PortCtl) : (q.endHold).frame = q.frame := rfl
@[simp] theorem endHold_overflow (q : PortCtl) : (q.endHold).overflow = q.overflow := rfl
@[simp] theorem endHold_tenBit (q : PortCtl) : (q.endHold).tenBit = q.tenBit := rfl
@[simp] theorem endHold_ownWait (q : PortCtl) : (q.endHold).ownWait = q.ownWait := rfl
@[simp] theorem endHold_restartWait (q : PortCtl) : (q.endHold).restartWait = q.restartWait := rfl
@[simp] theorem endHold_hold (q : PortCtl) : (q.endHold).hold = none := rfl
@[simp] theorem endHold_holdLimit (q : PortCtl) : (q.endHold).holdLimit = q.holdLimit := rfl
@[simp] theorem endHold_requests (q : PortCtl) : (q.endHold).requests = q.requests := rfl
@[simp] theorem endHold_fetched (q : PortCtl) : (q.endHold).fetched = q.fetched := rfl
@[simp] theorem endHold_shown (q : PortCtl) : (q.endHold).shown = q.shown := rfl
@[simp] theorem endHold_held (q : PortCtl) : (q.endHold).held = q.held := rfl
@[simp] theorem endHold_high (q : PortCtl) : (q.endHold).high = q.high := rfl
@[simp] theorem endHold_awaiting (q : PortCtl) : (q.endHold).awaiting = q.awaiting := rfl
@[simp] theorem endHold_stale (q : PortCtl) : (q.endHold).stale = q.stale := rfl
@[simp] theorem endHold_lastAnswer (q : PortCtl) : (q.endHold).lastAnswer = q.lastAnswer := rfl
@[simp] theorem endHold_toTable (q : PortCtl) : (q.endHold).toTable = q.toTable := rfl
@[simp] theorem endHold_fromTable (q : PortCtl) : (q.endHold).fromTable = q.fromTable := rfl
@[simp] theorem endHold_toSegments (q : PortCtl) : (q.endHold).toSegments = q.toSegments := rfl
@[simp] theorem endHold_fromSegments (q : PortCtl) : (q.endHold).fromSegments = q.fromSegments := rfl
@[simp] theorem endHold_handedOver (q : PortCtl) : (q.endHold).handedOver = q.handedOver := rfl
@[simp] theorem endHold_ownDone (q : PortCtl) : (q.endHold).ownDone = q.ownDone := rfl
@[simp] theorem endHold_restartDone (q : PortCtl) : (q.endHold).restartDone = q.restartDone := rfl

/-! ### answer -/

@[simp] theorem answer_phase (q : PortCtl) (a : Answer) : (q.answer a).phase = q.phase := rfl
@[simp] theorem answer_direction (q : PortCtl) (a : Answer) : (q.answer a).direction = q.direction := rfl
@[simp] theorem answer_bound (q : PortCtl) (a : Answer) : (q.answer a).bound = q.bound := rfl
@[simp] theorem answer_link (q : PortCtl) (a : Answer) : (q.answer a).link = q.link := rfl
@[simp] theorem answer_count (q : PortCtl) (a : Answer) : (q.answer a).count = q.count := rfl
@[simp] theorem answer_declared (q : PortCtl) (a : Answer) : (q.answer a).declared = q.declared := rfl
@[simp] theorem answer_frame (q : PortCtl) (a : Answer) : (q.answer a).frame = q.frame := rfl
@[simp] theorem answer_overflow (q : PortCtl) (a : Answer) : (q.answer a).overflow = q.overflow := rfl
@[simp] theorem answer_tenBit (q : PortCtl) (a : Answer) : (q.answer a).tenBit = q.tenBit := rfl
@[simp] theorem answer_ownWait (q : PortCtl) (a : Answer) : (q.answer a).ownWait = q.ownWait := rfl
@[simp] theorem answer_restartWait (q : PortCtl) (a : Answer) : (q.answer a).restartWait = q.restartWait := rfl
@[simp] theorem answer_hold (q : PortCtl) (a : Answer) : (q.answer a).hold = none := rfl
@[simp] theorem answer_holdLimit (q : PortCtl) (a : Answer) : (q.answer a).holdLimit = q.holdLimit := rfl
@[simp] theorem answer_requests (q : PortCtl) (a : Answer) : (q.answer a).requests = q.requests := rfl
@[simp] theorem answer_fetched (q : PortCtl) (a : Answer) : (q.answer a).fetched = q.fetched := rfl
@[simp] theorem answer_shown (q : PortCtl) (a : Answer) : (q.answer a).shown = q.shown := rfl
@[simp] theorem answer_held (q : PortCtl) (a : Answer) : (q.answer a).held = q.held := rfl
@[simp] theorem answer_high (q : PortCtl) (a : Answer) : (q.answer a).high = q.high := rfl
@[simp] theorem answer_awaiting (q : PortCtl) (a : Answer) : (q.answer a).awaiting = q.awaiting := rfl
@[simp] theorem answer_stale (q : PortCtl) (a : Answer) : (q.answer a).stale = q.stale := rfl
@[simp] theorem answer_lastAnswer (q : PortCtl) (a : Answer) : (q.answer a).lastAnswer = some a := rfl
@[simp] theorem answer_toTable (q : PortCtl) (a : Answer) : (q.answer a).toTable = q.toTable := rfl
@[simp] theorem answer_fromTable (q : PortCtl) (a : Answer) : (q.answer a).fromTable = q.fromTable := rfl
@[simp] theorem answer_toSegments (q : PortCtl) (a : Answer) : (q.answer a).toSegments = q.toSegments := rfl
@[simp] theorem answer_fromSegments (q : PortCtl) (a : Answer) : (q.answer a).fromSegments = q.fromSegments := rfl
@[simp] theorem answer_handedOver (q : PortCtl) (a : Answer) : (q.answer a).handedOver = q.handedOver := rfl
@[simp] theorem answer_ownDone (q : PortCtl) (a : Answer) : (q.answer a).ownDone = q.ownDone := rfl
@[simp] theorem answer_restartDone (q : PortCtl) (a : Answer) : (q.answer a).restartDone = q.restartDone := rfl

/-! ### dropFetched -/

@[simp] theorem dropFetched_phase (q : PortCtl) : (q.dropFetched).phase = q.phase := rfl
@[simp] theorem dropFetched_direction (q : PortCtl) : (q.dropFetched).direction = q.direction := rfl
@[simp] theorem dropFetched_bound (q : PortCtl) : (q.dropFetched).bound = q.bound := rfl
@[simp] theorem dropFetched_link (q : PortCtl) : (q.dropFetched).link = q.link := rfl
@[simp] theorem dropFetched_count (q : PortCtl) : (q.dropFetched).count = q.count := rfl
@[simp] theorem dropFetched_declared (q : PortCtl) : (q.dropFetched).declared = q.declared := rfl
@[simp] theorem dropFetched_frame (q : PortCtl) : (q.dropFetched).frame = q.frame := rfl
@[simp] theorem dropFetched_overflow (q : PortCtl) : (q.dropFetched).overflow = q.overflow := rfl
@[simp] theorem dropFetched_tenBit (q : PortCtl) : (q.dropFetched).tenBit = q.tenBit := rfl
@[simp] theorem dropFetched_ownWait (q : PortCtl) : (q.dropFetched).ownWait = q.ownWait := rfl
@[simp] theorem dropFetched_restartWait (q : PortCtl) : (q.dropFetched).restartWait = q.restartWait := rfl
@[simp] theorem dropFetched_hold (q : PortCtl) : (q.dropFetched).hold = q.hold := rfl
@[simp] theorem dropFetched_holdLimit (q : PortCtl) : (q.dropFetched).holdLimit = q.holdLimit := rfl
@[simp] theorem dropFetched_requests (q : PortCtl) : (q.dropFetched).requests = q.requests := rfl
@[simp] theorem dropFetched_fetched (q : PortCtl) : (q.dropFetched).fetched = none := rfl
@[simp] theorem dropFetched_shown (q : PortCtl) : (q.dropFetched).shown = false := rfl
@[simp] theorem dropFetched_held (q : PortCtl) : (q.dropFetched).held = q.held := rfl
@[simp] theorem dropFetched_high (q : PortCtl) : (q.dropFetched).high = q.high := rfl
@[simp] theorem dropFetched_awaiting (q : PortCtl) : (q.dropFetched).awaiting = q.awaiting := rfl
@[simp] theorem dropFetched_stale (q : PortCtl) : (q.dropFetched).stale = q.stale := rfl
@[simp] theorem dropFetched_lastAnswer (q : PortCtl) : (q.dropFetched).lastAnswer = q.lastAnswer := rfl
@[simp] theorem dropFetched_toTable (q : PortCtl) : (q.dropFetched).toTable = q.toTable := rfl
@[simp] theorem dropFetched_fromTable (q : PortCtl) : (q.dropFetched).fromTable = q.fromTable := rfl
@[simp] theorem dropFetched_toSegments (q : PortCtl) : (q.dropFetched).toSegments = q.toSegments := rfl
@[simp] theorem dropFetched_fromSegments (q : PortCtl) : (q.dropFetched).fromSegments = q.fromSegments := rfl
@[simp] theorem dropFetched_handedOver (q : PortCtl) : (q.dropFetched).handedOver = q.handedOver := rfl
@[simp] theorem dropFetched_ownDone (q : PortCtl) : (q.dropFetched).ownDone = q.ownDone := rfl
@[simp] theorem dropFetched_restartDone (q : PortCtl) : (q.dropFetched).restartDone = q.restartDone := rfl

/-! ### toPhase -/

@[simp] theorem toPhase_phase (q : PortCtl) (ph : Phase) : (q.toPhase ph).phase = ph := rfl
@[simp] theorem toPhase_direction (q : PortCtl) (ph : Phase) : (q.toPhase ph).direction = q.direction := rfl
@[simp] theorem toPhase_bound (q : PortCtl) (ph : Phase) : (q.toPhase ph).bound = q.bound := rfl
@[simp] theorem toPhase_link (q : PortCtl) (ph : Phase) : (q.toPhase ph).link = q.link := rfl
@[simp] theorem toPhase_count (q : PortCtl) (ph : Phase) : (q.toPhase ph).count = q.count := rfl
@[simp] theorem toPhase_declared (q : PortCtl) (ph : Phase) : (q.toPhase ph).declared = q.declared := rfl
@[simp] theorem toPhase_frame (q : PortCtl) (ph : Phase) : (q.toPhase ph).frame = q.frame := rfl
@[simp] theorem toPhase_overflow (q : PortCtl) (ph : Phase) : (q.toPhase ph).overflow = q.overflow := rfl
@[simp] theorem toPhase_tenBit (q : PortCtl) (ph : Phase) : (q.toPhase ph).tenBit = q.tenBit := rfl
@[simp] theorem toPhase_ownWait (q : PortCtl) (ph : Phase) : (q.toPhase ph).ownWait = q.ownWait := rfl
@[simp] theorem toPhase_restartWait (q : PortCtl) (ph : Phase) : (q.toPhase ph).restartWait = q.restartWait := rfl
@[simp] theorem toPhase_hold (q : PortCtl) (ph : Phase) : (q.toPhase ph).hold = q.hold := rfl
@[simp] theorem toPhase_holdLimit (q : PortCtl) (ph : Phase) : (q.toPhase ph).holdLimit = q.holdLimit := rfl
@[simp] theorem toPhase_requests (q : PortCtl) (ph : Phase) : (q.toPhase ph).requests = q.requests := rfl
@[simp] theorem toPhase_fetched (q : PortCtl) (ph : Phase) : (q.toPhase ph).fetched = none := rfl
@[simp] theorem toPhase_shown (q : PortCtl) (ph : Phase) : (q.toPhase ph).shown = false := rfl
@[simp] theorem toPhase_held (q : PortCtl) (ph : Phase) : (q.toPhase ph).held = q.held := rfl
@[simp] theorem toPhase_high (q : PortCtl) (ph : Phase) : (q.toPhase ph).high = q.high := rfl
@[simp] theorem toPhase_awaiting (q : PortCtl) (ph : Phase) : (q.toPhase ph).awaiting = q.awaiting := rfl
@[simp] theorem toPhase_stale (q : PortCtl) (ph : Phase) : (q.toPhase ph).stale = q.stale := rfl
@[simp] theorem toPhase_lastAnswer (q : PortCtl) (ph : Phase) : (q.toPhase ph).lastAnswer = q.lastAnswer := rfl
@[simp] theorem toPhase_toTable (q : PortCtl) (ph : Phase) : (q.toPhase ph).toTable = q.toTable := rfl
@[simp] theorem toPhase_fromTable (q : PortCtl) (ph : Phase) : (q.toPhase ph).fromTable = q.fromTable := rfl
@[simp] theorem toPhase_toSegments (q : PortCtl) (ph : Phase) : (q.toPhase ph).toSegments = q.toSegments := rfl
@[simp] theorem toPhase_fromSegments (q : PortCtl) (ph : Phase) : (q.toPhase ph).fromSegments = q.fromSegments := rfl
@[simp] theorem toPhase_handedOver (q : PortCtl) (ph : Phase) : (q.toPhase ph).handedOver = q.handedOver := rfl
@[simp] theorem toPhase_ownDone (q : PortCtl) (ph : Phase) : (q.toPhase ph).ownDone = q.ownDone := rfl
@[simp] theorem toPhase_restartDone (q : PortCtl) (ph : Phase) : (q.toPhase ph).restartDone = q.restartDone := rfl

/-! ### countUp -/

@[simp] theorem countUp_phase (q : PortCtl) : (q.countUp).phase = q.phase := rfl
@[simp] theorem countUp_direction (q : PortCtl) : (q.countUp).direction = q.direction := rfl
@[simp] theorem countUp_bound (q : PortCtl) : (q.countUp).bound = q.bound := rfl
@[simp] theorem countUp_link (q : PortCtl) : (q.countUp).link = q.link := rfl
@[simp] theorem countUp_count (q : PortCtl) : (q.countUp).count = min 256 (q.count + 1) := rfl
@[simp] theorem countUp_declared (q : PortCtl) : (q.countUp).declared = q.declared := rfl
@[simp] theorem countUp_frame (q : PortCtl) : (q.countUp).frame = q.frame := rfl
@[simp] theorem countUp_overflow (q : PortCtl) : (q.countUp).overflow = q.overflow := rfl
@[simp] theorem countUp_tenBit (q : PortCtl) : (q.countUp).tenBit = q.tenBit := rfl
@[simp] theorem countUp_ownWait (q : PortCtl) : (q.countUp).ownWait = q.ownWait := rfl
@[simp] theorem countUp_restartWait (q : PortCtl) : (q.countUp).restartWait = q.restartWait := rfl
@[simp] theorem countUp_hold (q : PortCtl) : (q.countUp).hold = q.hold := rfl
@[simp] theorem countUp_holdLimit (q : PortCtl) : (q.countUp).holdLimit = q.holdLimit := rfl
@[simp] theorem countUp_requests (q : PortCtl) : (q.countUp).requests = q.requests := rfl
@[simp] theorem countUp_fetched (q : PortCtl) : (q.countUp).fetched = q.fetched := rfl
@[simp] theorem countUp_shown (q : PortCtl) : (q.countUp).shown = q.shown := rfl
@[simp] theorem countUp_held (q : PortCtl) : (q.countUp).held = q.held := rfl
@[simp] theorem countUp_high (q : PortCtl) : (q.countUp).high = q.high := rfl
@[simp] theorem countUp_awaiting (q : PortCtl) : (q.countUp).awaiting = q.awaiting := rfl
@[simp] theorem countUp_stale (q : PortCtl) : (q.countUp).stale = q.stale := rfl
@[simp] theorem countUp_lastAnswer (q : PortCtl) : (q.countUp).lastAnswer = q.lastAnswer := rfl
@[simp] theorem countUp_toTable (q : PortCtl) : (q.countUp).toTable = q.toTable := rfl
@[simp] theorem countUp_fromTable (q : PortCtl) : (q.countUp).fromTable = q.fromTable := rfl
@[simp] theorem countUp_toSegments (q : PortCtl) : (q.countUp).toSegments = q.toSegments := rfl
@[simp] theorem countUp_fromSegments (q : PortCtl) : (q.countUp).fromSegments = q.fromSegments := rfl
@[simp] theorem countUp_handedOver (q : PortCtl) : (q.countUp).handedOver = q.handedOver := rfl
@[simp] theorem countUp_ownDone (q : PortCtl) : (q.countUp).ownDone = q.ownDone := rfl
@[simp] theorem countUp_restartDone (q : PortCtl) : (q.countUp).restartDone = q.restartDone := rfl

/-! ### giveUpBinding -/

@[simp] theorem giveUpBinding_phase (q : PortCtl) : (q.giveUpBinding).phase = q.phase := by unfold giveUpBinding; split <;> rfl
@[simp] theorem giveUpBinding_direction (q : PortCtl) : (q.giveUpBinding).direction = q.direction := by unfold giveUpBinding; split <;> rfl
@[simp] theorem giveUpBinding_bound (q : PortCtl) : (q.giveUpBinding).bound = none := by unfold giveUpBinding; split <;> first | assumption | rfl
@[simp] theorem giveUpBinding_link (q : PortCtl) : (q.giveUpBinding).link = q.link := by unfold giveUpBinding; split <;> rfl
@[simp] theorem giveUpBinding_count (q : PortCtl) : (q.giveUpBinding).count = q.count := by unfold giveUpBinding; split <;> rfl
@[simp] theorem giveUpBinding_declared (q : PortCtl) : (q.giveUpBinding).declared = q.declared := by unfold giveUpBinding; split <;> rfl
@[simp] theorem giveUpBinding_frame (q : PortCtl) : (q.giveUpBinding).frame = q.frame := by unfold giveUpBinding; split <;> rfl
@[simp] theorem giveUpBinding_overflow (q : PortCtl) : (q.giveUpBinding).overflow = q.overflow := by unfold giveUpBinding; split <;> rfl
@[simp] theorem giveUpBinding_tenBit (q : PortCtl) : (q.giveUpBinding).tenBit = none := by unfold giveUpBinding; split <;> rfl
@[simp] theorem giveUpBinding_ownWait (q : PortCtl) : (q.giveUpBinding).ownWait = q.ownWait := by unfold giveUpBinding; split <;> rfl
@[simp] theorem giveUpBinding_restartWait (q : PortCtl) : (q.giveUpBinding).restartWait = q.restartWait := by unfold giveUpBinding; split <;> rfl
@[simp] theorem giveUpBinding_hold (q : PortCtl) : (q.giveUpBinding).hold = q.hold := by unfold giveUpBinding; split <;> rfl
@[simp] theorem giveUpBinding_holdLimit (q : PortCtl) : (q.giveUpBinding).holdLimit = q.holdLimit := by unfold giveUpBinding; split <;> rfl
@[simp] theorem giveUpBinding_requests (q : PortCtl) : (q.giveUpBinding).requests = q.requests := by unfold giveUpBinding; split <;> rfl
@[simp] theorem giveUpBinding_fetched (q : PortCtl) : (q.giveUpBinding).fetched = q.fetched := by unfold giveUpBinding; split <;> rfl
@[simp] theorem giveUpBinding_shown (q : PortCtl) : (q.giveUpBinding).shown = q.shown := by unfold giveUpBinding; split <;> rfl
@[simp] theorem giveUpBinding_held (q : PortCtl) : (q.giveUpBinding).held = q.held := by unfold giveUpBinding; split <;> rfl
@[simp] theorem giveUpBinding_high (q : PortCtl) : (q.giveUpBinding).high = q.high := by unfold giveUpBinding; split <;> rfl
@[simp] theorem giveUpBinding_awaiting (q : PortCtl) : (q.giveUpBinding).awaiting = q.awaiting := by unfold giveUpBinding; split <;> rfl
@[simp] theorem giveUpBinding_stale (q : PortCtl) : (q.giveUpBinding).stale = q.stale := by unfold giveUpBinding; split <;> rfl
@[simp] theorem giveUpBinding_lastAnswer (q : PortCtl) : (q.giveUpBinding).lastAnswer = q.lastAnswer := by unfold giveUpBinding; split <;> rfl
@[simp] theorem giveUpBinding_fromTable (q : PortCtl) : (q.giveUpBinding).fromTable = q.fromTable := by unfold giveUpBinding; split <;> rfl
@[simp] theorem giveUpBinding_toSegments (q : PortCtl) : (q.giveUpBinding).toSegments = q.toSegments := by unfold giveUpBinding; split <;> rfl
@[simp] theorem giveUpBinding_fromSegments (q : PortCtl) : (q.giveUpBinding).fromSegments = q.fromSegments := by unfold giveUpBinding; split <;> rfl
@[simp] theorem giveUpBinding_handedOver (q : PortCtl) : (q.giveUpBinding).handedOver = q.handedOver := by unfold giveUpBinding; split <;> rfl
@[simp] theorem giveUpBinding_ownDone (q : PortCtl) : (q.giveUpBinding).ownDone = q.ownDone := by unfold giveUpBinding; split <;> rfl
@[simp] theorem giveUpBinding_restartDone (q : PortCtl) : (q.giveUpBinding).restartDone = q.restartDone := by unfold giveUpBinding; split <;> rfl

/-! ### releaseSegment -/

@[simp] theorem releaseSegment_phase (q : PortCtl) : (q.releaseSegment).phase = q.phase := by unfold releaseSegment; split <;> rfl
@[simp] theorem releaseSegment_direction (q : PortCtl) : (q.releaseSegment).direction = q.direction := by unfold releaseSegment; split <;> rfl
@[simp] theorem releaseSegment_bound (q : PortCtl) : (q.releaseSegment).bound = q.bound := by unfold releaseSegment; split <;> rfl
@[simp] theorem releaseSegment_count (q : PortCtl) : (q.releaseSegment).count = q.count := by unfold releaseSegment; split <;> rfl
@[simp] theorem releaseSegment_declared (q : PortCtl) : (q.releaseSegment).declared = q.declared := by unfold releaseSegment; split <;> rfl
@[simp] theorem releaseSegment_frame (q : PortCtl) : (q.releaseSegment).frame = q.frame := by unfold releaseSegment; split <;> rfl
@[simp] theorem releaseSegment_overflow (q : PortCtl) : (q.releaseSegment).overflow = q.overflow := by unfold releaseSegment; split <;> rfl
@[simp] theorem releaseSegment_tenBit (q : PortCtl) : (q.releaseSegment).tenBit = q.tenBit := by unfold releaseSegment; split <;> rfl
@[simp] theorem releaseSegment_ownWait (q : PortCtl) : (q.releaseSegment).ownWait = q.ownWait := by unfold releaseSegment; split <;> rfl
@[simp] theorem releaseSegment_restartWait (q : PortCtl) : (q.releaseSegment).restartWait = q.restartWait := by unfold releaseSegment; split <;> rfl
@[simp] theorem releaseSegment_hold (q : PortCtl) : (q.releaseSegment).hold = q.hold := by unfold releaseSegment; split <;> rfl
@[simp] theorem releaseSegment_holdLimit (q : PortCtl) : (q.releaseSegment).holdLimit = q.holdLimit := by unfold releaseSegment; split <;> rfl
@[simp] theorem releaseSegment_requests (q : PortCtl) : (q.releaseSegment).requests = q.requests := by unfold releaseSegment; split <;> rfl
@[simp] theorem releaseSegment_held (q : PortCtl) : (q.releaseSegment).held = q.held := by unfold releaseSegment; split <;> rfl
@[simp] theorem releaseSegment_high (q : PortCtl) : (q.releaseSegment).high = q.high := by unfold releaseSegment; split <;> rfl
@[simp] theorem releaseSegment_awaiting (q : PortCtl) : (q.releaseSegment).awaiting = q.awaiting := by unfold releaseSegment; split <;> rfl
@[simp] theorem releaseSegment_stale (q : PortCtl) : (q.releaseSegment).stale = q.stale := by unfold releaseSegment; split <;> rfl
@[simp] theorem releaseSegment_lastAnswer (q : PortCtl) : (q.releaseSegment).lastAnswer = q.lastAnswer := by unfold releaseSegment; split <;> rfl
@[simp] theorem releaseSegment_toTable (q : PortCtl) : (q.releaseSegment).toTable = q.toTable := by unfold releaseSegment; split <;> rfl
@[simp] theorem releaseSegment_fromTable (q : PortCtl) : (q.releaseSegment).fromTable = q.fromTable := by unfold releaseSegment; split <;> rfl
@[simp] theorem releaseSegment_fromSegments (q : PortCtl) : (q.releaseSegment).fromSegments = q.fromSegments := by unfold releaseSegment; split <;> rfl
@[simp] theorem releaseSegment_handedOver (q : PortCtl) : (q.releaseSegment).handedOver = q.handedOver := by unfold releaseSegment; split <;> rfl
@[simp] theorem releaseSegment_ownDone (q : PortCtl) : (q.releaseSegment).ownDone = q.ownDone := by unfold releaseSegment; split <;> rfl
@[simp] theorem releaseSegment_restartDone (q : PortCtl) : (q.releaseSegment).restartDone = q.restartDone := by unfold releaseSegment; split <;> rfl

/-! ### leaveSegment -/

@[simp] theorem leaveSegment_phase (q : PortCtl) : (q.leaveSegment).phase = q.phase := by unfold leaveSegment; split <;> simp [sendSegment]
@[simp] theorem leaveSegment_direction (q : PortCtl) : (q.leaveSegment).direction = q.direction := by unfold leaveSegment; split <;> simp [sendSegment]
@[simp] theorem leaveSegment_bound (q : PortCtl) : (q.leaveSegment).bound = q.bound := by unfold leaveSegment; split <;> simp [sendSegment]
@[simp] theorem leaveSegment_count (q : PortCtl) : (q.leaveSegment).count = q.count := by unfold leaveSegment; split <;> simp [sendSegment]
@[simp] theorem leaveSegment_declared (q : PortCtl) : (q.leaveSegment).declared = q.declared := by unfold leaveSegment; split <;> simp [sendSegment]
@[simp] theorem leaveSegment_frame (q : PortCtl) : (q.leaveSegment).frame = q.frame := by unfold leaveSegment; split <;> simp [sendSegment]
@[simp] theorem leaveSegment_overflow (q : PortCtl) : (q.leaveSegment).overflow = q.overflow := by unfold leaveSegment; split <;> simp [sendSegment]
@[simp] theorem leaveSegment_tenBit (q : PortCtl) : (q.leaveSegment).tenBit = q.tenBit := by unfold leaveSegment; split <;> simp [sendSegment]
@[simp] theorem leaveSegment_ownWait (q : PortCtl) : (q.leaveSegment).ownWait = q.ownWait := by unfold leaveSegment; split <;> simp [sendSegment]
@[simp] theorem leaveSegment_restartWait (q : PortCtl) : (q.leaveSegment).restartWait = q.restartWait := by unfold leaveSegment; split <;> simp [sendSegment]
@[simp] theorem leaveSegment_hold (q : PortCtl) : (q.leaveSegment).hold = q.hold := by unfold leaveSegment; split <;> simp [sendSegment]
@[simp] theorem leaveSegment_holdLimit (q : PortCtl) : (q.leaveSegment).holdLimit = q.holdLimit := by unfold leaveSegment; split <;> simp [sendSegment]
@[simp] theorem leaveSegment_requests (q : PortCtl) : (q.leaveSegment).requests = q.requests := by unfold leaveSegment; split <;> simp [sendSegment]
@[simp] theorem leaveSegment_held (q : PortCtl) : (q.leaveSegment).held = q.held := by unfold leaveSegment; split <;> simp [sendSegment]
@[simp] theorem leaveSegment_high (q : PortCtl) : (q.leaveSegment).high = q.high := by unfold leaveSegment; split <;> simp [sendSegment]
@[simp] theorem leaveSegment_awaiting (q : PortCtl) : (q.leaveSegment).awaiting = q.awaiting := by unfold leaveSegment; split <;> simp [sendSegment]
@[simp] theorem leaveSegment_stale (q : PortCtl) : (q.leaveSegment).stale = q.stale := by unfold leaveSegment; split <;> simp [sendSegment]
@[simp] theorem leaveSegment_lastAnswer (q : PortCtl) : (q.leaveSegment).lastAnswer = q.lastAnswer := by unfold leaveSegment; split <;> simp [sendSegment]
@[simp] theorem leaveSegment_toTable (q : PortCtl) : (q.leaveSegment).toTable = q.toTable := by unfold leaveSegment; split <;> simp [sendSegment]
@[simp] theorem leaveSegment_fromTable (q : PortCtl) : (q.leaveSegment).fromTable = q.fromTable := by unfold leaveSegment; split <;> simp [sendSegment]
@[simp] theorem leaveSegment_fromSegments (q : PortCtl) : (q.leaveSegment).fromSegments = q.fromSegments := by unfold leaveSegment; split <;> simp [sendSegment]
@[simp] theorem leaveSegment_handedOver (q : PortCtl) : (q.leaveSegment).handedOver = q.handedOver := by unfold leaveSegment; split <;> simp [sendSegment]
@[simp] theorem leaveSegment_ownDone (q : PortCtl) : (q.leaveSegment).ownDone = q.ownDone := by unfold leaveSegment; split <;> simp [sendSegment]
@[simp] theorem leaveSegment_restartDone (q : PortCtl) : (q.leaveSegment).restartDone = q.restartDone := by unfold leaveSegment; split <;> simp [sendSegment]

/-! ### askSegment -/

@[simp] theorem askSegment_phase (q : PortCtl) (a : Primitive) : (q.askSegment a).phase = q.phase := by unfold askSegment; split <;> rfl
@[simp] theorem askSegment_direction (q : PortCtl) (a : Primitive) : (q.askSegment a).direction = q.direction := by unfold askSegment; split <;> rfl
@[simp] theorem askSegment_bound (q : PortCtl) (a : Primitive) : (q.askSegment a).bound = q.bound := by unfold askSegment; split <;> rfl
@[simp] theorem askSegment_link (q : PortCtl) (a : Primitive) : (q.askSegment a).link = q.link := by unfold askSegment; split <;> rfl
@[simp] theorem askSegment_count (q : PortCtl) (a : Primitive) : (q.askSegment a).count = q.count := by unfold askSegment; split <;> rfl
@[simp] theorem askSegment_declared (q : PortCtl) (a : Primitive) : (q.askSegment a).declared = q.declared := by unfold askSegment; split <;> rfl
@[simp] theorem askSegment_frame (q : PortCtl) (a : Primitive) : (q.askSegment a).frame = q.frame := by unfold askSegment; split <;> rfl
@[simp] theorem askSegment_overflow (q : PortCtl) (a : Primitive) : (q.askSegment a).overflow = q.overflow := by unfold askSegment; split <;> rfl
@[simp] theorem askSegment_tenBit (q : PortCtl) (a : Primitive) : (q.askSegment a).tenBit = q.tenBit := by unfold askSegment; split <;> rfl
@[simp] theorem askSegment_ownWait (q : PortCtl) (a : Primitive) : (q.askSegment a).ownWait = q.ownWait := by unfold askSegment; split <;> rfl
@[simp] theorem askSegment_restartWait (q : PortCtl) (a : Primitive) : (q.askSegment a).restartWait = q.restartWait := by unfold askSegment; split <;> rfl
@[simp] theorem askSegment_hold (q : PortCtl) (a : Primitive) : (q.askSegment a).hold = q.hold := by unfold askSegment; split <;> rfl
@[simp] theorem askSegment_holdLimit (q : PortCtl) (a : Primitive) : (q.askSegment a).holdLimit = q.holdLimit := by unfold askSegment; split <;> rfl
@[simp] theorem askSegment_requests (q : PortCtl) (a : Primitive) : (q.askSegment a).requests = q.requests := by unfold askSegment; split <;> rfl
@[simp] theorem askSegment_fetched (q : PortCtl) (a : Primitive) : (q.askSegment a).fetched = q.fetched := by unfold askSegment; split <;> rfl
@[simp] theorem askSegment_shown (q : PortCtl) (a : Primitive) : (q.askSegment a).shown = q.shown := by unfold askSegment; split <;> rfl
@[simp] theorem askSegment_held (q : PortCtl) (a : Primitive) : (q.askSegment a).held = q.held := by unfold askSegment; split <;> rfl
@[simp] theorem askSegment_high (q : PortCtl) (a : Primitive) : (q.askSegment a).high = q.high := by unfold askSegment; split <;> rfl
@[simp] theorem askSegment_awaiting (q : PortCtl) (a : Primitive) : (q.askSegment a).awaiting = q.awaiting := by unfold askSegment; split <;> rfl
@[simp] theorem askSegment_stale (q : PortCtl) (a : Primitive) : (q.askSegment a).stale = q.stale := by unfold askSegment; split <;> rfl
@[simp] theorem askSegment_lastAnswer (q : PortCtl) (a : Primitive) : (q.askSegment a).lastAnswer = q.lastAnswer := by unfold askSegment; split <;> rfl
@[simp] theorem askSegment_toTable (q : PortCtl) (a : Primitive) : (q.askSegment a).toTable = q.toTable := by unfold askSegment; split <;> rfl
@[simp] theorem askSegment_fromTable (q : PortCtl) (a : Primitive) : (q.askSegment a).fromTable = q.fromTable := by unfold askSegment; split <;> rfl
@[simp] theorem askSegment_fromSegments (q : PortCtl) (a : Primitive) : (q.askSegment a).fromSegments = q.fromSegments := by unfold askSegment; split <;> rfl
@[simp] theorem askSegment_handedOver (q : PortCtl) (a : Primitive) : (q.askSegment a).handedOver = q.handedOver := by unfold askSegment; split <;> rfl
@[simp] theorem askSegment_ownDone (q : PortCtl) (a : Primitive) : (q.askSegment a).ownDone = q.ownDone := by unfold askSegment; split <;> rfl
@[simp] theorem askSegment_restartDone (q : PortCtl) (a : Primitive) : (q.askSegment a).restartDone = q.restartDone := by unfold askSegment; split <;> rfl

/-! ### stopAwaiting -/

@[simp] theorem stopAwaiting_phase (q : PortCtl) : (q.stopAwaiting).phase = q.phase := by unfold stopAwaiting; split <;> simp_all
@[simp] theorem stopAwaiting_direction (q : PortCtl) : (q.stopAwaiting).direction = q.direction := by unfold stopAwaiting; split <;> simp_all
@[simp] theorem stopAwaiting_bound (q : PortCtl) : (q.stopAwaiting).bound = q.bound := by unfold stopAwaiting; split <;> simp_all
@[simp] theorem stopAwaiting_link (q : PortCtl) : (q.stopAwaiting).link = q.link := by unfold stopAwaiting; split <;> simp_all
@[simp] theorem stopAwaiting_count (q : PortCtl) : (q.stopAwaiting).count = q.count := by unfold stopAwaiting; split <;> simp_all
@[simp] theorem stopAwaiting_declared (q : PortCtl) : (q.stopAwaiting).declared = q.declared := by unfold stopAwaiting; split <;> simp_all
@[simp] theorem stopAwaiting_frame (q : PortCtl) : (q.stopAwaiting).frame = q.frame := by unfold stopAwaiting; split <;> simp_all
@[simp] theorem stopAwaiting_overflow (q : PortCtl) : (q.stopAwaiting).overflow = q.overflow := by unfold stopAwaiting; split <;> simp_all
@[simp] theorem stopAwaiting_tenBit (q : PortCtl) : (q.stopAwaiting).tenBit = q.tenBit := by unfold stopAwaiting; split <;> simp_all
@[simp] theorem stopAwaiting_ownWait (q : PortCtl) : (q.stopAwaiting).ownWait = q.ownWait := by unfold stopAwaiting; split <;> simp_all
@[simp] theorem stopAwaiting_restartWait (q : PortCtl) : (q.stopAwaiting).restartWait = q.restartWait := by unfold stopAwaiting; split <;> simp_all
@[simp] theorem stopAwaiting_hold (q : PortCtl) : (q.stopAwaiting).hold = q.hold := by unfold stopAwaiting; split <;> simp_all
@[simp] theorem stopAwaiting_holdLimit (q : PortCtl) : (q.stopAwaiting).holdLimit = q.holdLimit := by unfold stopAwaiting; split <;> simp_all
@[simp] theorem stopAwaiting_requests (q : PortCtl) : (q.stopAwaiting).requests = q.requests := by unfold stopAwaiting; split <;> simp_all
@[simp] theorem stopAwaiting_fetched (q : PortCtl) : (q.stopAwaiting).fetched = q.fetched := by unfold stopAwaiting; split <;> simp_all
@[simp] theorem stopAwaiting_shown (q : PortCtl) : (q.stopAwaiting).shown = q.shown := by unfold stopAwaiting; split <;> simp_all
@[simp] theorem stopAwaiting_held (q : PortCtl) : (q.stopAwaiting).held = q.held := by unfold stopAwaiting; split <;> simp_all
@[simp] theorem stopAwaiting_high (q : PortCtl) : (q.stopAwaiting).high = q.high := by unfold stopAwaiting; split <;> simp_all
@[simp] theorem stopAwaiting_awaiting (q : PortCtl) : (q.stopAwaiting).awaiting = false := by unfold stopAwaiting; split <;> simp_all
@[simp] theorem stopAwaiting_lastAnswer (q : PortCtl) : (q.stopAwaiting).lastAnswer = q.lastAnswer := by unfold stopAwaiting; split <;> simp_all
@[simp] theorem stopAwaiting_toTable (q : PortCtl) : (q.stopAwaiting).toTable = q.toTable := by unfold stopAwaiting; split <;> simp_all
@[simp] theorem stopAwaiting_fromTable (q : PortCtl) : (q.stopAwaiting).fromTable = q.fromTable := by unfold stopAwaiting; split <;> simp_all
@[simp] theorem stopAwaiting_toSegments (q : PortCtl) : (q.stopAwaiting).toSegments = q.toSegments := by unfold stopAwaiting; split <;> simp_all
@[simp] theorem stopAwaiting_fromSegments (q : PortCtl) : (q.stopAwaiting).fromSegments = q.fromSegments := by unfold stopAwaiting; split <;> simp_all
@[simp] theorem stopAwaiting_handedOver (q : PortCtl) : (q.stopAwaiting).handedOver = q.handedOver := by unfold stopAwaiting; split <;> simp_all
@[simp] theorem stopAwaiting_ownDone (q : PortCtl) : (q.stopAwaiting).ownDone = q.ownDone := by unfold stopAwaiting; split <;> simp_all
@[simp] theorem stopAwaiting_restartDone (q : PortCtl) : (q.stopAwaiting).restartDone = q.restartDone := by unfold stopAwaiting; split <;> simp_all

/-! ### presentLookup -/

@[simp] theorem presentLookup_phase (q : PortCtl) (x : Query) : (q.presentLookup x).phase = q.phase := rfl
@[simp] theorem presentLookup_direction (q : PortCtl) (x : Query) : (q.presentLookup x).direction = q.direction := rfl
@[simp] theorem presentLookup_bound (q : PortCtl) (x : Query) : (q.presentLookup x).bound = q.bound := rfl
@[simp] theorem presentLookup_link (q : PortCtl) (x : Query) : (q.presentLookup x).link = q.link := rfl
@[simp] theorem presentLookup_count (q : PortCtl) (x : Query) : (q.presentLookup x).count = q.count := rfl
@[simp] theorem presentLookup_declared (q : PortCtl) (x : Query) : (q.presentLookup x).declared = q.declared := rfl
@[simp] theorem presentLookup_frame (q : PortCtl) (x : Query) : (q.presentLookup x).frame = q.frame := rfl
@[simp] theorem presentLookup_overflow (q : PortCtl) (x : Query) : (q.presentLookup x).overflow = q.overflow := rfl
@[simp] theorem presentLookup_tenBit (q : PortCtl) (x : Query) : (q.presentLookup x).tenBit = q.tenBit := rfl
@[simp] theorem presentLookup_ownWait (q : PortCtl) (x : Query) : (q.presentLookup x).ownWait = q.ownWait := rfl
@[simp] theorem presentLookup_restartWait (q : PortCtl) (x : Query) : (q.presentLookup x).restartWait = q.restartWait := rfl
@[simp] theorem presentLookup_hold (q : PortCtl) (x : Query) : (q.presentLookup x).hold = q.hold := rfl
@[simp] theorem presentLookup_holdLimit (q : PortCtl) (x : Query) : (q.presentLookup x).holdLimit = q.holdLimit := rfl
@[simp] theorem presentLookup_requests (q : PortCtl) (x : Query) : (q.presentLookup x).requests = q.requests := rfl
@[simp] theorem presentLookup_fetched (q : PortCtl) (x : Query) : (q.presentLookup x).fetched = q.fetched := rfl
@[simp] theorem presentLookup_shown (q : PortCtl) (x : Query) : (q.presentLookup x).shown = q.shown := rfl
@[simp] theorem presentLookup_held (q : PortCtl) (x : Query) : (q.presentLookup x).held = q.held := rfl
@[simp] theorem presentLookup_high (q : PortCtl) (x : Query) : (q.presentLookup x).high = q.high := rfl
@[simp] theorem presentLookup_awaiting (q : PortCtl) (x : Query) : (q.presentLookup x).awaiting = true := rfl
@[simp] theorem presentLookup_stale (q : PortCtl) (x : Query) : (q.presentLookup x).stale = q.stale := rfl
@[simp] theorem presentLookup_lastAnswer (q : PortCtl) (x : Query) : (q.presentLookup x).lastAnswer = q.lastAnswer := rfl
@[simp] theorem presentLookup_toTable (q : PortCtl) (x : Query) : (q.presentLookup x).toTable = q.toTable ++ [.lookup x] := rfl
@[simp] theorem presentLookup_fromTable (q : PortCtl) (x : Query) : (q.presentLookup x).fromTable = q.fromTable := rfl
@[simp] theorem presentLookup_toSegments (q : PortCtl) (x : Query) : (q.presentLookup x).toSegments = q.toSegments := rfl
@[simp] theorem presentLookup_fromSegments (q : PortCtl) (x : Query) : (q.presentLookup x).fromSegments = q.fromSegments := rfl
@[simp] theorem presentLookup_handedOver (q : PortCtl) (x : Query) : (q.presentLookup x).handedOver = q.handedOver := rfl
@[simp] theorem presentLookup_ownDone (q : PortCtl) (x : Query) : (q.presentLookup x).ownDone = q.ownDone := rfl
@[simp] theorem presentLookup_restartDone (q : PortCtl) (x : Query) : (q.presentLookup x).restartDone = q.restartDone := rfl

/-! ### requestSegment -/

@[simp] theorem requestSegment_phase (q : PortCtl) (g : SegIx) : (q.requestSegment g).phase = .waitGrant := rfl
@[simp] theorem requestSegment_direction (q : PortCtl) (g : SegIx) : (q.requestSegment g).direction = q.direction := rfl
@[simp] theorem requestSegment_bound (q : PortCtl) (g : SegIx) : (q.requestSegment g).bound = q.bound := rfl
@[simp] theorem requestSegment_link (q : PortCtl) (g : SegIx) : (q.requestSegment g).link = .queued g := rfl
@[simp] theorem requestSegment_count (q : PortCtl) (g : SegIx) : (q.requestSegment g).count = q.count := rfl
@[simp] theorem requestSegment_declared (q : PortCtl) (g : SegIx) : (q.requestSegment g).declared = q.declared := rfl
@[simp] theorem requestSegment_frame (q : PortCtl) (g : SegIx) : (q.requestSegment g).frame = q.frame := rfl
@[simp] theorem requestSegment_overflow (q : PortCtl) (g : SegIx) : (q.requestSegment g).overflow = q.overflow := rfl
@[simp] theorem requestSegment_tenBit (q : PortCtl) (g : SegIx) : (q.requestSegment g).tenBit = q.tenBit := rfl
@[simp] theorem requestSegment_ownWait (q : PortCtl) (g : SegIx) : (q.requestSegment g).ownWait = q.ownWait := rfl
@[simp] theorem requestSegment_restartWait (q : PortCtl) (g : SegIx) : (q.requestSegment g).restartWait = q.restartWait := rfl
@[simp] theorem requestSegment_hold (q : PortCtl) (g : SegIx) : (q.requestSegment g).hold = q.hold := rfl
@[simp] theorem requestSegment_holdLimit (q : PortCtl) (g : SegIx) : (q.requestSegment g).holdLimit = q.holdLimit := rfl
@[simp] theorem requestSegment_requests (q : PortCtl) (g : SegIx) : (q.requestSegment g).requests = q.requests + 1 := rfl
@[simp] theorem requestSegment_fetched (q : PortCtl) (g : SegIx) : (q.requestSegment g).fetched = none := rfl
@[simp] theorem requestSegment_shown (q : PortCtl) (g : SegIx) : (q.requestSegment g).shown = false := rfl
@[simp] theorem requestSegment_held (q : PortCtl) (g : SegIx) : (q.requestSegment g).held = q.held := rfl
@[simp] theorem requestSegment_high (q : PortCtl) (g : SegIx) : (q.requestSegment g).high = q.high := rfl
@[simp] theorem requestSegment_awaiting (q : PortCtl) (g : SegIx) : (q.requestSegment g).awaiting = q.awaiting := rfl
@[simp] theorem requestSegment_stale (q : PortCtl) (g : SegIx) : (q.requestSegment g).stale = q.stale := rfl
@[simp] theorem requestSegment_lastAnswer (q : PortCtl) (g : SegIx) : (q.requestSegment g).lastAnswer = q.lastAnswer := rfl
@[simp] theorem requestSegment_toTable (q : PortCtl) (g : SegIx) : (q.requestSegment g).toTable = q.toTable := rfl
@[simp] theorem requestSegment_fromTable (q : PortCtl) (g : SegIx) : (q.requestSegment g).fromTable = q.fromTable := rfl
@[simp] theorem requestSegment_toSegments (q : PortCtl) (g : SegIx) : (q.requestSegment g).toSegments = q.toSegments ++ [(g, .request (q.requests + 1))] := rfl
@[simp] theorem requestSegment_fromSegments (q : PortCtl) (g : SegIx) : (q.requestSegment g).fromSegments = q.fromSegments := rfl
@[simp] theorem requestSegment_handedOver (q : PortCtl) (g : SegIx) : (q.requestSegment g).handedOver = q.handedOver := rfl
@[simp] theorem requestSegment_ownDone (q : PortCtl) (g : SegIx) : (q.requestSegment g).ownDone = q.ownDone := rfl
@[simp] theorem requestSegment_restartDone (q : PortCtl) (g : SegIx) : (q.requestSegment g).restartDone = q.restartDone := rfl
/-! ### frameEnd -/

@[simp] theorem frameEnd_phase (q : PortCtl) : q.frameEnd.phase = q.phase := by unfold frameEnd; simp only; split <;> simp
@[simp] theorem frameEnd_direction (q : PortCtl) : q.frameEnd.direction = q.direction := by unfold frameEnd; simp only; split <;> simp
@[simp] theorem frameEnd_bound (q : PortCtl) : q.frameEnd.bound = none := by unfold frameEnd; simp only; split <;> simp
@[simp] theorem frameEnd_link (q : PortCtl) : q.frameEnd.link = q.link := by unfold frameEnd; simp only; split <;> simp
@[simp] theorem frameEnd_count (q : PortCtl) : q.frameEnd.count = q.count := by unfold frameEnd; simp only; split <;> simp
@[simp] theorem frameEnd_declared (q : PortCtl) : q.frameEnd.declared = q.declared := by unfold frameEnd; simp only; split <;> simp
@[simp] theorem frameEnd_frame (q : PortCtl) : q.frameEnd.frame = [] := by unfold frameEnd; simp only; split <;> simp
@[simp] theorem frameEnd_overflow (q : PortCtl) : q.frameEnd.overflow = false := by unfold frameEnd; simp only; split <;> simp
@[simp] theorem frameEnd_tenBit (q : PortCtl) : q.frameEnd.tenBit = none := by unfold frameEnd; simp only; split <;> simp
@[simp] theorem frameEnd_restartWait (q : PortCtl) : q.frameEnd.restartWait = q.restartWait := by unfold frameEnd; simp only; split <;> simp
@[simp] theorem frameEnd_hold (q : PortCtl) : q.frameEnd.hold = q.hold := by unfold frameEnd; simp only; split <;> simp
@[simp] theorem frameEnd_holdLimit (q : PortCtl) : q.frameEnd.holdLimit = q.holdLimit := by unfold frameEnd; simp only; split <;> simp
@[simp] theorem frameEnd_requests (q : PortCtl) : q.frameEnd.requests = q.requests := by unfold frameEnd; simp only; split <;> simp
@[simp] theorem frameEnd_fetched (q : PortCtl) : q.frameEnd.fetched = q.fetched := by unfold frameEnd; simp only; split <;> simp
@[simp] theorem frameEnd_shown (q : PortCtl) : q.frameEnd.shown = q.shown := by unfold frameEnd; simp only; split <;> simp
@[simp] theorem frameEnd_held (q : PortCtl) : q.frameEnd.held = q.held := by unfold frameEnd; simp only; split <;> simp
@[simp] theorem frameEnd_high (q : PortCtl) : q.frameEnd.high = q.high := by unfold frameEnd; simp only; split <;> simp
@[simp] theorem frameEnd_awaiting (q : PortCtl) : q.frameEnd.awaiting = q.awaiting := by unfold frameEnd; simp only; split <;> simp
@[simp] theorem frameEnd_stale (q : PortCtl) : q.frameEnd.stale = q.stale := by unfold frameEnd; simp only; split <;> simp
@[simp] theorem frameEnd_lastAnswer (q : PortCtl) : q.frameEnd.lastAnswer = q.lastAnswer := by unfold frameEnd; simp only; split <;> simp
@[simp] theorem frameEnd_toTable (q : PortCtl) : q.frameEnd.toTable = q.giveUpBinding.toTable := by unfold frameEnd; simp only; split <;> simp
@[simp] theorem frameEnd_fromTable (q : PortCtl) : q.frameEnd.fromTable = q.fromTable := by unfold frameEnd; simp only; split <;> simp
@[simp] theorem frameEnd_toSegments (q : PortCtl) : q.frameEnd.toSegments = q.toSegments := by unfold frameEnd; simp only; split <;> simp
@[simp] theorem frameEnd_fromSegments (q : PortCtl) : q.frameEnd.fromSegments = q.fromSegments := by unfold frameEnd; simp only; split <;> simp
@[simp] theorem frameEnd_ownDone (q : PortCtl) : q.frameEnd.ownDone = q.ownDone := by unfold frameEnd; simp only; split <;> simp
@[simp] theorem frameEnd_restartDone (q : PortCtl) : q.frameEnd.restartDone = q.restartDone := by unfold frameEnd; simp only; split <;> simp

/-! ### What the context gives up -/

/-- A bound context sends the unbind of its slot and generation (R23). -/
theorem giveUpBinding_toTable_some (q : PortCtl) (b : Binding) (h : q.bound = some b) :
    q.giveUpBinding.toTable = q.toTable ++ [.unbind b.slot b.gen] := by
  unfold giveUpBinding; split <;> simp_all [sendTable]

/-- An unbound context sends nothing. -/
theorem giveUpBinding_toTable_none (q : PortCtl) (h : q.bound = none) : q.giveUpBinding.toTable = q.toTable := by
  unfold giveUpBinding; split <;> simp_all

/-- After a release no segment is owned (R47). -/
theorem releaseSegment_link (q : PortCtl) :
    q.releaseSegment.link = match q.link with
      | .owned _ => .none
      | .queued g => .queued g
      | .none => .none := by
  unfold releaseSegment; split <;> simp_all [sendSegment]

/-- An owned segment is sent a release (R47). -/
theorem releaseSegment_toSegments_owned (q : PortCtl) (g : SegIx) (h : q.link = .owned g) :
    q.releaseSegment.toSegments = q.toSegments ++ [(g, .release)] := by
  unfold releaseSegment; split <;> simp_all [sendSegment, dropFetched]

/-- Nothing is released where nothing is owned. -/
theorem releaseSegment_unowned (q : PortCtl) (h : ∀ g, q.link ≠ .owned g) : q.releaseSegment = q := by
  unfold releaseSegment; split <;> simp_all

/-- An owned segment is released, a queued one withdrawn from (R66). -/
@[simp] theorem leaveSegment_link (q : PortCtl) : q.leaveSegment.link = .none := by
  unfold leaveSegment; split <;> simp_all [sendSegment, releaseSegment_link]

/-- A release drops the fetched byte, if it was kept (R95). -/
theorem releaseSegment_fetched (q : PortCtl) (h : q.fetched = none) : q.releaseSegment.fetched = none := by
  unfold releaseSegment; split <;> simp_all [sendSegment, dropFetched]

theorem releaseSegment_shown (q : PortCtl) (h : q.shown = false) : q.releaseSegment.shown = false := by
  unfold releaseSegment; split <;> simp_all [sendSegment, dropFetched]

end PortCtl

end Sys2Proof.Machine
end

