-- ==== Sys2Proof/Laws/Ports.lean ====
section
/-! SUPPORT. Every event at a port controller keeps it in a sound state. -/

namespace Sys2Proof.Machine

namespace PortCtl

/-- A context with nothing bound, linked, held, awaited or collected is sound in the phases that hold nothing (3.2). -/
theorem toPhase_rest_ok {q : PortCtl} (ph : Phase) (hp : ph = .idle ∨ ph = .unaddressed ∨ ph = .absorb)
    (hb : q.bound = none) (hl : q.link = .none) (hh : q.hold = none) (ha : q.awaiting = false) (hd : q.held = none)
    (ht : q.tenBit = none) (hf : q.frame = []) (ho : q.overflow = false) (hc : q.count ≤ 256) :
    PortOk (q.toPhase ph) := by
  rcases hp with rfl | rfl | rfl <;> constructor <;>
    simp [Phase.isBound, Phase.ownsSegment, Phase.receivesAddress, *]

theorem refuseAddress_ok {q : PortCtl} (hb : q.bound = none) (hl : q.link = .none) (ha : q.awaiting = false)
    (hd : q.held = none) (ht : q.tenBit = none) (hf : q.frame = []) (ho : q.overflow = false) (hc : q.count ≤ 256) :
    PortOk q.refuseAddress :=
  toPhase_rest_ok _ (.inr (.inl rfl)) hb hl rfl ha hd ht hf ho hc

theorem releaseSegment_link_unqueued (q : PortCtl) (h : ∀ g, q.link ≠ .queued g) : q.releaseSegment.link = .none := by
  rw [releaseSegment_link]; split <;> simp_all

theorem refuseCarried_ok {q : PortCtl} (hl : ∀ g, q.link ≠ .queued g) (ha : q.awaiting = false)
    (hd : q.held = none) (hf : q.frame = []) (ho : q.overflow = false) (hc : q.count ≤ 256) :
    PortOk q.refuseCarried := by
  apply refuseAddress_ok <;> simp [releaseSegment_link_unqueued, *]

theorem absorb_ok {q : PortCtl} (hl : ∀ g, q.link ≠ .queued g) (hh : q.hold = none) (ha : q.awaiting = false)
    (hd : q.held = none) (hf : q.frame = []) (ho : q.overflow = false) (hc : q.count ≤ 256) : PortOk q.absorb := by
  apply toPhase_rest_ok <;> simp [releaseSegment_link_unqueued, *]

theorem takeStartCondition_ok {q : PortCtl} (h : PortOk q) : PortOk q.takeStartCondition := by
  unfold takeStartCondition
  split
  · exact h
  · rename_i hh
    have hh : q.hold = none := by simpa using hh
    obtain ⟨h1, h2, h3, h4, h5, h6, h7, h8, h9, h10, h11, h12, h13, h14, h15, h16, h17⟩ := h
    cases hp : q.phase
    all_goals
      simp [hp, Phase.isBound, Phase.ownsSegment, Phase.receivesAddress, hh] at h1 h2 h3 h4 h5 h6 h7 h8 h9 h10 h11 h12 h13 h14 h15 h16 h17
    all_goals (constructor <;> simp_all [takeStart, takeRestart, newAddressPhase, Phase.isBound, Phase.ownsSegment, Phase.receivesAddress])

theorem takeStop_ok {q : PortCtl} (h : PortOk q) : PortOk q.takeStop := by
  unfold takeStop
  split
  · exact h
  · rename_i hh
    have hh : q.hold = none := by simpa using hh
    obtain ⟨h1, h2, h3, h4, h5, h6, h7, h8, h9, h10, h11, h12, h13, h14, h15, h16, h17⟩ := h
    cases hp : q.phase
    case idle => constructor <;> assumption
    all_goals
      simp [hp, Phase.isBound, Phase.ownsSegment, Phase.receivesAddress, hh] at h1 h2 h3 h4 h5 h6 h7 h8 h9 h10 h11 h12 h13 h14 h15 h16 h17
    all_goals
      constructor <;> simp_all [giveUpAtStop, releaseSegment_link_unqueued, Phase.isBound, Phase.ownsSegment, Phase.receivesAddress]

theorem judgeAddressByte_ok {q : PortCtl} (h : PortOk { q with hold := none, held := none, awaiting := false })
    (hp : q.phase = .address ∨ q.phase = .tenLow) (hh : q.hold.isSome = true) (hd : q.held = none) (ha : q.awaiting = false) (b : Byte) :
    PortOk (q.judgeAddressByte b).1 := by
  obtain ⟨h1, h2, h3, h4, h5, h6, h7, h8, h9, h10, h11, h12, h13, h14, h15, h16, h17⟩ := h
  simp only at h1 h2 h3 h4 h5 h6 h7 h8 h9 h10 h11 h12 h13 h14 h15 h16 h17
  rcases hp with hp | hp
  · simp [hp, Phase.isBound, Phase.ownsSegment, Phase.receivesAddress] at h1 h2 h3 h4 h5 h6 h7 h8 h9 h10 h11 h12 h13 h14 h15 h16 h17
    have hc : ∀ d, PortOk ({ q with direction := d }).refuseCarried := fun d => by
      apply refuseCarried_ok <;> simp_all
    simp only [judgeAddressByte, hp]
    split
    · split
      · constructor <;> simp_all [judgePrefixWrite, Phase.isBound, Phase.ownsSegment, Phase.receivesAddress]
      · unfold judgePrefixRead
        simp only
        split
        · split
          · split
            · split
              · split
                · rename_i hg
                  obtain ⟨k, hg⟩ : ∃ k, q.link = .owned k := by
                    unfold ownedSegment at hg; split at hg <;> simp_all
                  constructor <;> simp_all [askAddress, Phase.isBound, Phase.ownsSegment, Phase.receivesAddress]
                · constructor <;> simp_all [Phase.isBound, Phase.ownsSegment, Phase.receivesAddress]
              · exact hc _
            · exact hc _
          · exact hc _
        · exact hc _
    · constructor <;> simp_all [judgeSevenBit, Phase.isBound, Phase.ownsSegment, Phase.receivesAddress]
  · simp [hp, Phase.isBound, Phase.ownsSegment, Phase.receivesAddress] at h1 h2 h3 h4 h5 h6 h7 h8 h9 h10 h11 h12 h13 h14 h15 h16 h17
    simp only [judgeAddressByte, hp]
    constructor <;> simp_all [judgeLowByte, Phase.isBound, Phase.ownsSegment, Phase.receivesAddress]


/-- The conditions under which an address byte is judged or kept. -/
theorem takeAddressByte_ok {q : PortCtl} (h : PortOk q) (hp : q.phase = .address ∨ q.phase = .tenLow) (hh : q.hold = none)
    (now : Nat) (b : Byte) : PortOk (q.takeAddressByte now b).1 := by
  have hj : q.awaiting = false ∧ q.held = none := by
    have := h.judging (by rcases hp with hp | hp <;> simp [hp, Phase.receivesAddress])
    simpa [hh] using this
  unfold takeAddressByte
  simp only
  split
  · obtain ⟨h1, h2, h3, h4, h5, h6, h7, h8, h9, h10, h11, h12, h13, h14, h15, h16, h17⟩ := h
    rcases hp with hp | hp <;> constructor <;> simp_all [Phase.isBound, Phase.ownsSegment, Phase.receivesAddress]
  · apply judgeAddressByte_ok
    · obtain ⟨h1, h2, h3, h4, h5, h6, h7, h8, h9, h10, h11, h12, h13, h14, h15, h16, h17⟩ := h
      rcases hp with hp | hp <;> constructor <;> simp_all [Phase.isBound, Phase.ownsSegment, Phase.receivesAddress]
    · simpa using hp
    · rfl
    · exact hj.2
    · exact hj.1

theorem takeFirstByte_ok {q : PortCtl} (h : PortOk q) (now : Nat) (b : Byte) : PortOk (q.takeFirstByte now b).1 := by
  unfold takeFirstByte; split
  · rename_i c; exact takeAddressByte_ok h (.inl c.1) c.2 now b
  · exact h

theorem takeLowByte_ok {q : PortCtl} (h : PortOk q) (now : Nat) (b : Byte) : PortOk (q.takeLowByte now b).1 := by
  unfold takeLowByte; split
  · rename_i c; exact takeAddressByte_ok h (.inr c.1) c.2 now b
  · exact h

/-- The conditions of the interpreter wait and its reports take no part in soundness. -/
theorem ok_waits {q : PortCtl} (h : PortOk q) (a b c d : Bool) (f : Option Frame) :
    PortOk { q with ownWait := a, restartWait := b, ownDone := c, restartDone := d, handedOver := f } := by
  obtain ⟨h1, h2, h3, h4, h5, h6, h7, h8, h9, h10, h11, h12, h13, h14, h15, h16, h17⟩ := h
  exact ⟨h1, h2, h3, h4, h5, h6, h7, h8, h9, h10, h11, h12, h13, h14, h15, h16, h17⟩

/-- The messages under way and the hold limit take no part in soundness. -/
theorem ok_messages {q : PortCtl} (h : PortOk q) (a : List TableMsg) (b : List TableReply) (c : List (SegIx × SegMsg))
    (d : List (SegIx × PortMsg)) (l : Byte) (n : Nat) :
    PortOk { q with toTable := a, fromTable := b, toSegments := c, fromSegments := d, holdLimit := l, stale := n } := by
  obtain ⟨h1, h2, h3, h4, h5, h6, h7, h8, h9, h10, h11, h12, h13, h14, h15, h16, h17⟩ := h
  exact ⟨h1, h2, h3, h4, h5, h6, h7, h8, h9, h10, h11, h12, h13, h14, h15, h16, h17⟩

theorem judgeHeld_ok {q : PortCtl} (h : PortOk q) : PortOk q.judgeHeld.1 := by
  unfold judgeHeld
  split
  · rename_i b hb
    split
    · exact h
    · have hr : q.phase.receivesAddress = true := by
        cases hr : q.phase.receivesAddress with
        | true => rfl
        | false => have := (h.notJudging hr).2; simp_all
      have hp : q.phase = .address ∨ q.phase = .tenLow := by
        cases hq : q.phase <;> simp_all [Phase.receivesAddress]
      have ha := h.unjudged (by simp [hb])
      have hh := (h.judging hr).2 (.inr (by simp [hb]))
      apply judgeAddressByte_ok
      · obtain ⟨h1, h2, h3, h4, h5, h6, h7, h8, h9, h10, h11, h12, h13, h14, h15, h16, h17⟩ := h
        rcases hp with hp | hp <;> constructor <;> simp_all [Phase.isBound, Phase.ownsSegment, Phase.receivesAddress]
      · exact hp
      · exact hh
      · rfl
      · exact ha
  · exact h

theorem actOnLookup_ok {q : PortCtl} (h : PortOk q) (ha : q.awaiting = true) (x : Query) (bd : Option Binding) :
    PortOk (q.actOnLookup x bd) := by
  have hr : q.phase.receivesAddress = true := by
    cases hr : q.phase.receivesAddress with
    | true => rfl
    | false => have := (h.notJudging hr).1; simp_all
  have hd : q.held = none := by
    cases hq : q.held with
    | none => rfl
    | some b => have := h.unjudged (by simp [hq]); simp_all
  have hh := (h.judging hr).2 (.inl ha)
  have hp : q.phase = .address ∨ q.phase = .tenLow := by
    cases hq : q.phase <;> simp_all [Phase.receivesAddress]
  obtain ⟨h1, h2, h3, h4, h5, h6, h7, h8, h9, h10, h11, h12, h13, h14, h15, h16, h17⟩ := h
  have hf : q.frame = [] ∧ q.overflow = false := h16 (by rcases hp with hp | hp <;> simp [hp])
  have hl : ∀ g, q.link ≠ .queued g := by
    intro g e; have := h3.2 ⟨g, e⟩; rcases hp with hp | hp <;> simp [hp] at this
  unfold actOnLookup
  simp only
  split
  · apply refuseCarried_ok <;> simp_all
  · split
    · unfold enterLocal
      simp only
      split <;> constructor <;> simp_all [releaseSegment_link_unqueued, Phase.isBound, Phase.ownsSegment, Phase.receivesAddress]
    · rename_i b _ g w a _
      have hb : ∀ m, ((({ q with awaiting := false, direction := some x.dir }).giveUpBinding).rememberTenBit x b).tenBit = some m →
          b.slot = m.slot ∧ b.gen = m.gen := by
        intro m; unfold rememberTenBit; split
        · simp; rintro rfl; exact ⟨rfl, rfl⟩
        · simp
      generalize hz : (({ ({ q with awaiting := false, direction := some x.dir }).giveUpBinding with bound := some b } :
        PortCtl).rememberTenBit x b) = z
      have z1 : z.bound = some b := by rw [← hz]; unfold rememberTenBit; split <;> rfl
      have z2 : z.link = q.link := by rw [← hz]; unfold rememberTenBit; split <;> simp
      have z3 : z.hold = q.hold := by rw [← hz]; unfold rememberTenBit; split <;> simp
      have z4 : z.awaiting = false := by rw [← hz]; unfold rememberTenBit; split <;> simp
      have z5 : z.held = none := by rw [← hz]; unfold rememberTenBit; split <;> simp [hd]
      have z6 : z.direction = some x.dir := by rw [← hz]; unfold rememberTenBit; split <;> simp
      have z7 : z.frame = [] ∧ z.overflow = false := by rw [← hz]; unfold rememberTenBit; split <;> simp [hf]
      have z8 : z.count ≤ 256 := by rw [← hz]; unfold rememberTenBit; split <;> simpa using h17
      have z9 : ∀ m, z.tenBit = some m → b.slot = m.slot ∧ b.gen = m.gen := by
        intro m; rw [← hz]; unfold rememberTenBit; split
        · simp; rintro rfl; exact ⟨rfl, rfl⟩
        · simp
      clear hz hb h1 h2 h3 h4 h5 h6 h7 h8 h9 h10 h11 h12 h13 h14 h15 h16 h17
      unfold enterForward
      split
      · rename_i hk
        have hk : ∃ k, z.link = .owned k := ⟨g, hk⟩
        constructor <;> simp_all [askAddress, Phase.isBound, Phase.ownsSegment, Phase.receivesAddress]
      · constructor <;> simp_all [Phase.isBound, Phase.ownsSegment, Phase.receivesAddress]

theorem discardOutcome_ok {q : PortCtl} (h : PortOk q) (bd : Option Binding) : PortOk (q.discardOutcome bd) := by
  unfold discardOutcome
  simp only
  split
  · exact ok_messages h _ _ _ _ _ _
  · exact ok_messages h _ _ _ _ _ _

theorem takeLookupOutcome_ok {q : PortCtl} (h : PortOk q) (x : Query) (bd : Option Binding) :
    PortOk (q.takeLookupOutcome x bd) := by
  unfold takeLookupOutcome
  split
  · rename_i c; exact actOnLookup_ok h c.2 x bd
  · exact discardOutcome_ok h bd

theorem takePrefixOutcome_ok {q : PortCtl} (h : PortOk q) (a : Bool) : PortOk (q.takePrefixOutcome a) := by
  unfold takePrefixOutcome
  split
  · rename_i c
    have ha := c.2
    have hr : q.phase.receivesAddress = true := by
      cases hr : q.phase.receivesAddress with
      | true => rfl
      | false => have := (h.notJudging hr).1; simp_all
    have hd : q.held = none := by
      cases hq : q.held with
      | none => rfl
      | some b => have := h.unjudged (by simp [hq]); simp_all
    have hp : q.phase = .address ∨ q.phase = .tenLow := by
      cases hq : q.phase <;> simp_all [Phase.receivesAddress]
    obtain ⟨h1, h2, h3, h4, h5, h6, h7, h8, h9, h10, h11, h12, h13, h14, h15, h16, h17⟩ := h
    have hf : q.frame = [] ∧ q.overflow = false := h16 (by rcases hp with hp | hp <;> simp [hp])
    have hl : ∀ g, q.link ≠ .queued g := by
      intro g e; have := h3.2 ⟨g, e⟩; rcases hp with hp | hp <;> simp [hp] at this
    split
    · constructor <;> simp_all [Phase.isBound, Phase.ownsSegment, Phase.receivesAddress]
    · apply refuseCarried_ok <;> simp_all
  · exact discardOutcome_ok h none

theorem takeGrant_ok {q : PortCtl} (h : PortOk q) (g : SegIx) (n : Nat) : PortOk (q.takeGrant g n) := by
  unfold takeGrant
  split
  · split
    · split
      · obtain ⟨h1, h2, h3, h4, h5, h6, h7, h8, h9, h10, h11, h12, h13, h14, h15, h16, h17⟩ := h
        constructor <;> simp_all [askAddress, Phase.isBound, Phase.ownsSegment, Phase.receivesAddress]
      · exact h
    · exact h
  · exact h

theorem takeRefusal_ok {q : PortCtl} (h : PortOk q) (g : SegIx) (n : Nat) : PortOk (q.takeRefusal g n) := by
  unfold takeRefusal
  split
  · rename_i c
    have hp := c.1
    obtain ⟨h1, h2, h3, h4, h5, h6, h7, h8, h9, h10, h11, h12, h13, h14, h15, h16, h17⟩ := h
    apply refuseAddress_ok <;> simp_all [Phase.receivesAddress]
  · exact h

theorem report_fields (q : PortCtl) (a : Bool) : ∃ m, q.report a = { q with toTable := m } := by
  unfold report; split
  · exact ⟨_, rfl⟩
  · exact ⟨_, rfl⟩

theorem report_ok {q : PortCtl} (h : PortOk q) (a : Bool) : PortOk (q.report a) := by
  obtain ⟨m, e⟩ := report_fields q a
  rw [e]; exact ok_messages h _ _ _ _ _ _

theorem takeAddressAck_ok {q : PortCtl} (h : PortOk q) (g : SegIx) : PortOk (q.takeAddressAck g) := by
  unfold takeAddressAck
  split
  · rename_i c
    have hp := c.1
    have h := report_ok h true
    have hp' : (q.report true).phase = .proxy := by obtain ⟨m, e⟩ := report_fields q true; rw [e]; exact hp
    generalize q.report true = r at *
    obtain ⟨h1, h2, h3, h4, h5, h6, h7, h8, h9, h10, h11, h12, h13, h14, h15, h16, h17⟩ := h
    simp only
    split <;> constructor <;> simp_all [Phase.isBound, Phase.ownsSegment, Phase.receivesAddress]
  · exact h

theorem takeAddressNack_ok {q : PortCtl} (h : PortOk q) (g : SegIx) : PortOk (q.takeAddressNack g) := by
  unfold takeAddressNack
  split
  · rename_i c
    have hp := c.1
    have h := report_ok h false
    have hp' : (q.report false).phase = .proxy := by obtain ⟨m, e⟩ := report_fields q false; rw [e]; exact hp
    generalize q.report false = r at *
    obtain ⟨h1, h2, h3, h4, h5, h6, h7, h8, h9, h10, h11, h12, h13, h14, h15, h16, h17⟩ := h
    apply refuseCarried_ok <;> simp_all [Phase.isBound, Phase.ownsSegment, Phase.receivesAddress]
  · exact h

/-- Giving up a write or a read toward ABSORB. -/
theorem absorb_of_owner {q : PortCtl} (h : PortOk q) (hp : q.phase = .write ∨ q.phase = .read ∨ q.phase = .proxy ∨ q.phase = .ending)
    (hh : q.hold = none) : PortOk q.absorb := by
  obtain ⟨h1, h2, h3, h4, h5, h6, h7, h8, h9, h10, h11, h12, h13, h14, h15, h16, h17⟩ := h
  rcases hp with hp | hp | hp | hp <;> apply absorb_ok <;> simp_all [Phase.receivesAddress]

theorem answer_ok {q : PortCtl} (h : PortOk q) (hp : q.phase ≠ .waitGrant ∧ q.phase ≠ .proxy)
    (hj : q.awaiting = false ∧ q.held = none) (a : Answer) : PortOk (q.answer a) := by
  obtain ⟨h1, h2, h3, h4, h5, h6, h7, h8, h9, h10, h11, h12, h13, h14, h15, h16, h17⟩ := h
  constructor <;> simp_all

theorem takeWriteResult_ok {q : PortCtl} (h : PortOk q) (g : SegIx) (a : Bool) : PortOk (q.takeWriteResult g a) := by
  unfold takeWriteResult
  split
  · rename_i c
    have hj := h.notJudging (by simp [c.1, Phase.receivesAddress])
    have ha := fun x => answer_ok h (by simp [c.1]) hj x
    split
    · exact ha _
    · exact absorb_of_owner (ha _) (.inl c.1) rfl
  · exact h

theorem takeReadResult_ok {q : PortCtl} (h : PortOk q) (g : SegIx) (b : Byte) : PortOk (q.takeReadResult g b) := by
  unfold takeReadResult
  split
  · rename_i c
    have hp := c.1
    obtain ⟨h1, h2, h3, h4, h5, h6, h7, h8, h9, h10, h11, h12, h13, h14, h15, h16, h17⟩ := h
    split <;> constructor <;> simp_all [shiftOut, Phase.receivesAddress, Phase.ownsSegment]
  · exact h

theorem takeEnding_ok {q : PortCtl} (h : PortOk q) (g : SegIx) : PortOk (q.takeEnding g) := by
  unfold takeEnding
  split
  · rename_i c
    have e1 : ∀ (x : PortCtl), x.endHoldOwnAnswer.hold = none ∧ x.endHoldOwnAnswer.bound = x.bound ∧
        x.endHoldOwnAnswer.link = x.link ∧ x.endHoldOwnAnswer.awaiting = x.awaiting ∧ x.endHoldOwnAnswer.held = x.held ∧
        x.endHoldOwnAnswer.frame = x.frame ∧ x.endHoldOwnAnswer.overflow = x.overflow ∧ x.endHoldOwnAnswer.count = x.count := by
      intro x; unfold endHoldOwnAnswer; split <;> simp_all
    obtain ⟨h1, h2, h3, h4, h5, h6, h7, h8, h9, h10, h11, h12, h13, h14, h15, h16, h17⟩ := h
    simp only
    split <;> rename_i hp
    · apply refuseAddress_ok <;> simp_all [Phase.receivesAddress]
    · apply toPhase_rest_ok <;> simp_all [Phase.receivesAddress]
    · apply toPhase_rest_ok <;> simp_all [Phase.receivesAddress]
    · apply toPhase_rest_ok <;> simp_all [Phase.receivesAddress]
    all_goals
      constructor <;> simp_all [Phase.isBound, Phase.ownsSegment, Phase.receivesAddress]
  · exact h

theorem takeCommandByte_ok {q : PortCtl} (h : PortOk q) (b : Byte) : PortOk (q.takeCommandByte b) := by
  unfold takeCommandByte
  split
  · rename_i hp
    obtain ⟨h1, h2, h3, h4, h5, h6, h7, h8, h9, h10, h11, h12, h13, h14, h15, h16, h17⟩ := h
    split <;> constructor <;> simp_all [Phase.isBound, Phase.ownsSegment, Phase.receivesAddress]
    all_goals first
      | omega
      | (cases e : q.overflow <;> simp_all)
  · exact h

theorem takeResponseByte_ok {q : PortCtl} (h : PortOk q) (bs : List Byte) : PortOk (q.takeResponseByte bs) := by
  unfold takeResponseByte
  split
  · rename_i hp
    obtain ⟨h1, h2, h3, h4, h5, h6, h7, h8, h9, h10, h11, h12, h13, h14, h15, h16, h17⟩ := h
    constructor <;> simp_all [Phase.isBound, Phase.ownsSegment, Phase.receivesAddress]
  · exact h

theorem takeWriteByte_ok {q : PortCtl} (h : PortOk q) (n : Nat) (b : Byte) : PortOk (q.takeWriteByte n b) := by
  unfold takeWriteByte
  split
  · rename_i hp hh hb
    have hj := h.notJudging (by simp [hp, Phase.receivesAddress])
    have ha := fun x => answer_ok h (by simp [hp]) hj x
    have hn : PortOk ((q.answer .nack).absorb) := absorb_of_owner (ha _) (.inl hp) rfl
    split
    · unfold takeDeclaredLength
      split
      · obtain ⟨h1, h2, h3, h4, h5, h6, h7, h8, h9, h10, h11, h12, h13, h14, h15, h16, h17⟩ := ha .ack
        constructor <;> simp_all
      · exact hn
    · split
      · obtain ⟨h1, h2, h3, h4, h5, h6, h7, h8, h9, h10, h11, h12, h13, h14, h15, h16, h17⟩ := h
        constructor <;> simp_all [Phase.receivesAddress, Phase.ownsSegment]
      · exact hn
  · exact h

theorem takeReadClock_ok {q : PortCtl} (h : PortOk q) (n : Nat) : PortOk (q.takeReadClock n) := by
  unfold takeReadClock
  split
  · rename_i c
    obtain ⟨hp, hh⟩ := c
    split
    · split
      · exact h
      · obtain ⟨h1, h2, h3, h4, h5, h6, h7, h8, h9, h10, h11, h12, h13, h14, h15, h16, h17⟩ := h
        constructor <;> simp_all [shiftOut, Phase.receivesAddress, Phase.ownsSegment]
    · obtain ⟨h1, h2, h3, h4, h5, h6, h7, h8, h9, h10, h11, h12, h13, h14, h15, h16, h17⟩ := h
      constructor <;> simp_all [Phase.receivesAddress, Phase.ownsSegment]
  · exact h

theorem takeHostAck_ok {q : PortCtl} (h : PortOk q) (a : Bool) : PortOk (q.takeHostAck a) := by
  unfold takeHostAck
  split
  · rename_i hp hs hb
    obtain ⟨h1, h2, h3, h4, h5, h6, h7, h8, h9, h10, h11, h12, h13, h14, h15, h16, h17⟩ := h
    simp only
    split
    · split
      · constructor <;> simp_all [Phase.receivesAddress, Phase.ownsSegment]
      · apply absorb_ok <;> simp_all [Phase.receivesAddress]
    · constructor <;> simp_all [Phase.isBound, Phase.receivesAddress, Phase.ownsSegment]
  · exact h

theorem takeAbsorbByte_ok {q : PortCtl} (h : PortOk q) (d : Direction) : PortOk (q.takeAbsorbByte d) := by
  unfold takeAbsorbByte
  split
  · rename_i hp
    have hj := h.notJudging (by simp [hp, Phase.receivesAddress])
    split <;> exact answer_ok h (by simp [hp]) hj _
  · exact h

theorem takeEndingByte_ok {q : PortCtl} (h : PortOk q) : PortOk q.takeEndingByte := by
  unfold takeEndingByte
  split
  · rename_i hp
    have hj := h.notJudging (by simp [hp, Phase.receivesAddress])
    exact answer_ok h (by simp [hp]) hj _
  · exact h

/-- A context moved to ABSORB with nothing left: what a hold expiry and a cancellation do. -/
theorem toAbsorb_ok {q : PortCtl} (hl : q.link = .none) (hh : q.hold = none) (hf : q.frame = []) (ho : q.overflow = false)
    (hc : q.count ≤ 256) : PortOk { q.giveUpBinding.stopAwaiting.toPhase .absorb with held := none } := by
  constructor <;> simp_all [Phase.isBound, Phase.ownsSegment, Phase.receivesAddress]

theorem takeHoldExpiry_ok {q : PortCtl} (h : PortOk q) (hs : q.hold.isSome = true) : PortOk q.takeHoldExpiry := by
  obtain ⟨h1, h2, h3, h4, h5, h6, h7, h8, h9, h10, h11, h12, h13, h14, h15, h16, h17⟩ := h
  have hf : q.frame = [] ∧ q.overflow = false := h16 (by intro e; have := h7 (by simp [e]); simp_all)
  unfold takeHoldExpiry
  apply toAbsorb_ok <;> simp_all

theorem takeCancellation_ok {q : PortCtl} (h : PortOk q) : PortOk q.takeCancellation := by
  have hc : PortOk q.cancelContext := by
    have hn := h.count
    have e1 : q.endHoldOwnAnswer.hold = none ∧ q.endHoldOwnAnswer.count = q.count := by
      unfold endHoldOwnAnswer; split <;> simp_all
    unfold cancelContext
    simp only
    split <;> constructor <;> simp_all [Phase.isBound, Phase.ownsSegment, Phase.receivesAddress]
  unfold takeCancellation
  split <;> first | exact h | exact hc

theorem reset_ok : PortOk PortCtl.reset := by
  constructor <;> simp [PortCtl.reset, Phase.isBound, Phase.ownsSegment, Phase.receivesAddress]

end PortCtl

end Sys2Proof.Machine
end

