-- ==== Sys2Proof/Laws/Segments.lean ====
section
/-! SUPPORT. Every event at a segment controller keeps it in a sound state. -/

namespace Sys2Proof.Machine

namespace Segment

/-- The lines, their record and the bus-free moment take no part in soundness. -/
theorem ok_lines {x : Segment} (h : SegmentOk x) (d : List Drive) (n : Nat) (a b : Bool) :
    SegmentOk { x with driven := d, freeSince := n, dsclLow := a, dsdaLow := b } := by
  obtain ⟨h1, h2, h3, h4, hi, h5, h6, h7, h8⟩ := h
  exact ⟨h1, h2, h3, h4, hi, h5, h6, h7, h8⟩

theorem ok_driven {x : Segment} (h : SegmentOk x) (d : List Drive) : SegmentOk { x with driven := d } :=
  ok_lines h d x.freeSince x.dsclLow x.dsdaLow

theorem ok_freed {x : Segment} (h : SegmentOk x) (d : List Drive) (n : Nat) :
    SegmentOk { x with freeSince := n, driven := d } := ok_lines h d n x.dsclLow x.dsdaLow

/-- Nor do the clock-low timer and the numbers of the requests. -/
theorem ok_clock {x : Segment} (h : SegmentOk x) (c : Option Nat) (k : Both Nat) :
    SegmentOk { x with clockLow := c, tickets := k } := by
  obtain ⟨h1, h2, h3, h4, hi, h5, h6, h7, h8⟩ := h
  exact ⟨h1, h2, h3, h4, hi, h5, h6, h7, h8⟩

theorem timed_ok {x : Segment} (h : SegmentOk x) (n : Nat) : SegmentOk (x.timed n) := ok_clock h _ x.tickets

/-- After every event the clock-low timer runs exactly while a condition holds (R119). -/
theorem timed_timerOk (x : Segment) (n : Nat) : timerOk (x.timed n) := by
  have e : (x.timed n).lineHeldLow = x.lineHeldLow := rfl
  unfold timerOk
  rw [e]
  cases h : x.lineHeldLow <;> simp [timed, h]

/-- With its timer sound, a segment that an event leaves alone keeps the timer too. -/
theorem timed_self {x : Segment} (h : timerOk x) (n : Nat) : x.timed n = x := by
  unfold timerOk at h
  cases hc : x.clockLow with
  | none => have e : x.lineHeldLow = false := by simpa [hc] using h
            simp [timed, e, ← hc]
  | some t => have e : x.lineHeldLow = true := by simpa [hc] using h
              simp [timed, e, hc]; rw [← hc]

theorem enterIdle_ok {x : Segment} (h : x.attempts ≤ 3) : SegmentOk x.enterIdle.seg := by
  unfold enterIdle
  split
  · constructor <;> simp_all [atRest]
  · constructor <;> simp_all [atRest, grantTo]

theorem grantTo_ok {x : Segment} (h : SegmentOk x) (hs : x.state = .idle) (p : Port) : SegmentOk (x.grantTo p).seg := by
  have := h.rest; have := h.attempts; have := h.pending; have := h.queue
  constructor <;> simp_all [grantTo]

theorem atRest_ok {x : Segment} {st : SegState} (hq : st = .clearing ∨ x.queue = [])
    (hs : st = .disabled ∨ st = .idle ∨ st = .clearing ∨ st = .faulted) (ha : x.attempts ≤ 3)
    (hc : st = .clearing → 1 ≤ x.attempts) (hf : st = .faulted → x.attempts = 3) : SegmentOk (x.atRest st) := by
  constructor <;> simp_all [atRest] <;> rcases hs with rfl | rfl | rfl | rfl <;> simp_all

theorem enterDisabled_ok {x : Segment} (hq : x.queue = []) (ha : x.attempts ≤ 3) : SegmentOk x.enterDisabled.seg :=
  atRest_ok (.inr hq) (.inl rfl) ha (by simp) (by simp)

theorem enterClearing_ok (x : Segment) : SegmentOk x.enterClearing := by
  constructor <;> simp_all [enterClearing, atRest]

theorem beginFirst_stage (x : Segment) : x.asks = [] ↔ x.beginFirst.stage = .none := by
  unfold beginFirst; split <;> simp_all

theorem beginFirst_ok {x : Segment} (ho : x.owner.isSome = true) (hs : x.state = .owned) (hp : x.pendingCancel = none)
    (ha : x.attempts ≤ 3) (hr : x.retries ≤ x.config.retryLimit.toNat) : SegmentOk x.beginFirst := by
  unfold beginFirst
  split <;> constructor <;> simp_all

theorem takeRequest_ok {x : Segment} (h : SegmentOk x) (p : Port) (n : Nat) : SegmentOk (x.takeRequest p n).seg := by
  unfold takeRequest
  simp only
  split
  · exact grantTo_ok (ok_clock h x.clockLow _) ‹_› p
  all_goals first
    | exact h
    | (obtain ⟨h1, h2, h3, h4, hi, h5, h6, h7, h8⟩ := h; constructor <;> simp_all)

/-- Losing the owner and the STOP that may end at once (R117, R118). -/
theorem loseOwner_stop_ok {x : Segment} (h : SegmentOk x) (hs : x.state = .owned) (st : SegState) (q : List Port)
    (hst : st = .releasing ∧ q = x.queue ∨ st = .closing ∧ q = []) :
    SegmentOk ({ x.loseOwner st with queue := q }).stopAtOnce.seg := by
  obtain ⟨h1, h2, h3, h4, hi, h5, h6, h7, h8⟩ := h
  unfold stopAtOnce
  split
  · rename_i hc
    rcases hst with ⟨rfl, rfl⟩ | ⟨rfl, rfl⟩
    · have : (x.loseOwner .releasing).state = .releasing := by unfold loseOwner; split <;> rfl
      simp only [this]
      exact enterIdle_ok (by unfold loseOwner; split <;> exact h7.1)
    · have : (x.loseOwner .closing).state = .closing := by unfold loseOwner; split <;> rfl
      simp only [this]
      exact enterDisabled_ok rfl (by unfold loseOwner; split <;> exact h7.1)
  · rename_i hc
    unfold loseOwner at hc ⊢
    split at hc <;> rename_i hb <;> simp only [hb, if_true, if_false, Bool.false_eq_true] at hc ⊢
    · have hne : x.asks ≠ [] := by
        intro e; have := h4.1 e; simp [begun, this] at hb
      rcases hst with ⟨rfl, rfl⟩ | ⟨rfl, rfl⟩ <;> constructor <;>
        simp_all [List.length_take, List.take_eq_nil_iff, List.head?_take]
    · rcases hst with ⟨rfl, rfl⟩ | ⟨rfl, rfl⟩ <;> constructor <;> simp_all

theorem enterReleasing_ok {x : Segment} (h : SegmentOk x) (hs : x.state = .owned) : SegmentOk x.enterReleasing.seg := by
  have hq : (x.loseOwner .releasing) = { x.loseOwner .releasing with queue := x.queue } := by
    unfold loseOwner; split <;> rfl
  unfold enterReleasing
  rw [hq]
  exact loseOwner_stop_ok h hs .releasing x.queue (.inl ⟨rfl, rfl⟩)

theorem takeRelease_ok {x : Segment} (h : SegmentOk x) (p : Port) : SegmentOk (x.takeRelease p).seg := by
  unfold takeRelease
  split
  · rename_i e
    exact enterReleasing_ok h (h.owner.1 (by simp [e]))
  · exact h

theorem takeWithdrawal_ok {x : Segment} (h : SegmentOk x) (p : Port) : SegmentOk (x.takeWithdrawal p).seg := by
  unfold takeWithdrawal
  split
  · obtain ⟨h1, h2, h3, h4, hi, h5, h6, h7, h8⟩ := h
    refine ⟨h1, ?_, h3, h4, hi, h5, h6, h7, h8⟩
    intro e; simp [h2 e]
  · exact takeRelease_ok h p

theorem takeAsk_ok {x : Segment} (h : SegmentOk x) (p : Port) (a : Primitive) : SegmentOk (x.takeAsk p a).seg := by
  unfold takeAsk
  split
  · rename_i e
    have hs := h.owner.1 (by simp [e])
    obtain ⟨h1, h2, h3, h4, hi, h5, h6, h7, h8⟩ := h
    split
    · refine beginFirst_ok (by simp [e]) hs ?_ h7.1 (h8 hs)
      cases hp : x.pendingCancel with
      | none => rfl
      | some r => have := (h6 (by simp [hp])).1; simp_all
    · have hne : x.asks ≠ [] := by simpa [List.isEmpty_iff] using ‹¬ x.asks.isEmpty = true›
      constructor <;> simp_all
      intro st; obtain ⟨b, e'⟩ := hi st; exact ⟨b, by simp [e']⟩
  · exact h

theorem makeStart_ok {x : Segment} (h : SegmentOk x) (hw : x.stage = .waiting) : SegmentOk x.makeStart := by
  obtain ⟨h1, h2, h3, h4, hi, h5, h6, h7, h8⟩ := h
  constructor <;> simp_all [makeStart]

/-- Coming to the Restart inside a 10-bit read keeps the segment sound (R105, R108). -/
theorem tenBitRestart_ok {x : Segment} (h : SegmentOk x) (ha : ∃ a, x.asks.head? = some (.address .w10 a .read))
    (d : List Drive) : SegmentOk (x.tenBitRestart d) := by
  have hn : x.asks ≠ [] := by rintro e; simp [e] at ha
  obtain ⟨h1, h2, h3, h4, hi, h5, h6, h7, h8⟩ := h
  unfold tenBitRestart
  split <;> constructor <;> simp_all

theorem comeToRestart_ok {x : Segment} (h : SegmentOk x) : SegmentOk x.comeToRestart := by
  unfold comeToRestart
  split <;> first | exact h | exact tenBitRestart_ok h ⟨_, by simp [*]; rfl⟩ _

/-- While a line is low by the latest sample, the controller waits at the Restart inside a 10-bit read, and a low DSDA there
is a condition of the clock-low timer, which starts from the moment the wait begins (R119). -/
theorem tenBitRestart_waits {x : Segment} (hl : x.linesHigh = false) (hr : x.timerCanRun = true)
    (d : List Drive) (now : Nat) :
    (x.tenBitRestart d).stage = .toRestart ∧ ((x.tenBitRestart d).timed now).clockLow = some now := by
  have hl' : x.dsclLow = false → x.dsdaLow = true := by simpa [linesHigh] using hl
  have hr' : ({ x with stage := Stage.toRestart, clockLow := none, driven := d } : Segment).timerCanRun = true := by
    unfold timerCanRun at hr ⊢
    cases hx : x.state <;> simp_all
  refine ⟨by simp [tenBitRestart, hl], ?_⟩
  simp only [tenBitRestart, hl, Bool.false_eq_true, if_false, timed, lineHeldLow, hr', waitsToStart]
  cases hc : x.dsclLow <;> simp_all

/-- The end of a primitive at an open position, in every state that has one in progress (R107, R117, R118). -/
theorem endPrimitive_ok {x : Segment} (h : SegmentOk x) (hb : x.asks ≠ []) (pos : Position) (m : PortMsg) (d : List Drive) :
    SegmentOk (x.endPrimitive pos m d).seg := by
  obtain ⟨h1, h2, h3, h4, hi, h5, h6, h7, h8⟩ := h
  unfold endPrimitive
  split
  · rename_i hs
    refine beginFirst_ok (h1.2 hs) hs ?_ h7.1 (h8 hs)
    cases hp : x.pendingCancel with
    | none => rfl
    | some r => have := (h6 (by simp [hp])).1; simp_all
  · rename_i hs
    unfold stopAtOnce
    split
    · simp only [hs]; exact enterIdle_ok h7.1
    · constructor <;> simp_all
  · rename_i hs
    unfold stopAtOnce
    simp only
    split
    · simp only [hs]; exact enterDisabled_ok (h2 (by simp [hs])) h7.1
    · constructor <;> simp_all
  all_goals exact ⟨h1, h2, h3, h4, hi, h5, h6, h7, h8⟩

theorem begun_asks {x : Segment} (h : SegmentOk x) (hb : x.begun = true) : x.asks ≠ [] := by
  intro e; have := h.stage.1 e; simp [begun, this] at hb

theorem addressEnd_ok {x : Segment} (h : SegmentOk x) (n : Nat) : SegmentOk (x.addressEnd n).seg := by
  unfold addressEnd
  split
  · split
    · rename_i hb
      have hn := begun_asks h (by simp_all)
      by_cases hw : x.stage = .waiting
      · simp only [hw, if_true]
        have hy := makeStart_ok h hw
        split <;> exact endPrimitive_ok hy hn _ _ _
      · simp only [hw, if_false]
        have hy := ok_driven h []
        split <;> exact endPrimitive_ok hy hn _ _ _
    · exact h
  all_goals exact h

theorem writeByteEnd_ok {x : Segment} (h : SegmentOk x) (a : Bool) : SegmentOk (x.writeByteEnd a).seg := by
  unfold writeByteEnd
  split <;> (try split) <;> first | exact h | exact endPrimitive_ok h (begun_asks h ‹_›) _ _ _

theorem readByteEnd_ok {x : Segment} (h : SegmentOk x) (b : Byte) : SegmentOk (x.readByteEnd b).seg := by
  unfold readByteEnd
  split <;> (try split) <;> first | exact h | exact endPrimitive_ok h (begun_asks h ‹_›) _ _ _

theorem ackBitEnd_ok {x : Segment} (h : SegmentOk x) : SegmentOk x.ackBitEnd.seg := by
  unfold ackBitEnd
  split
  · split
    · exact endPrimitive_ok h (begun_asks h ‹_›) _ _ _
    · exact h
  all_goals exact h

theorem stopEnd_ok {x : Segment} (h : SegmentOk x) (n : Nat) : SegmentOk (x.stopEnd n).seg := by
  unfold stopEnd
  split
  · simp only
    split
    · exact enterIdle_ok h.attempts.1
    · exact enterDisabled_ok (h.queue (by simp_all)) h.attempts.1
    all_goals exact h
  · exact h

theorem arbitrationLossAddress_ok {x : Segment} (h : SegmentOk x) (n : Nat) :
    SegmentOk (x.arbitrationLossAddress n).seg := by
  unfold arbitrationLossAddress
  split
  · split
    · simp only
      split
      · obtain ⟨h1, h2, h3, h4, hi, h5, h6, h7, h8⟩ := h
        constructor <;> simp_all
      · exact enterIdle_ok h.attempts.1
    · exact h
  · exact h

theorem arbitrationLoss_ok {x : Segment} (h : SegmentOk x) (n : Nat) : SegmentOk (x.arbitrationLoss n).seg := by
  unfold arbitrationLoss
  simp only
  split
  all_goals (try split)
  all_goals first
    | exact h
    | exact enterIdle_ok h.attempts.1
    | exact enterDisabled_ok (h.queue (by simp_all)) h.attempts.1

theorem failAttempt_ok {x : Segment} (h : SegmentOk x) (hs : x.state = .clearing) (g : SegIx) :
    SegmentOk (x.failAttempt g).seg := by
  unfold failAttempt
  split
  · obtain ⟨h1, h2, h3, h4, hi, h5, h6, h7, h8⟩ := h
    constructor <;> simp_all
  · have := h.attempts.1
    constructor <;> simp_all [atRest]
    omega

theorem clockLowExpiry_ok {x : Segment} (h : SegmentOk x) (g : SegIx) : SegmentOk (x.clockLowExpiry g).seg := by
  unfold clockLowExpiry
  split
  · split
    · exact ok_driven (enterClearing_ok x) _
    · exact ok_driven (enterClearing_ok x) _
    · exact ok_driven (enterClearing_ok x) _
    · exact failAttempt_ok h ‹_› g
    · exact enterDisabled_ok (h.queue (by simp_all)) h.attempts.1
    all_goals exact h
  · exact h

theorem clearCheck_ok {x : Segment} (h : SegmentOk x) (g : SegIx) (n : Nat) (a b : Bool) :
    SegmentOk (x.clearCheck g n a b).seg := by
  unfold clearCheck
  split
  · simp only
    split
    · exact enterIdle_ok h.attempts.1
    · exact ok_driven (failAttempt_ok (ok_lines h x.driven x.freeSince _ _) ‹_› g) _
  all_goals exact h

theorem sampleLines_ok {x : Segment} (h : SegmentOk x) (n : Nat) (a b : Bool) : SegmentOk (x.sampleLines n a b) := by
  exact timed_ok (ok_lines h x.driven _ a b) n

/-- In SHARED mode a sample that follows one with a line low starts the bus-free count at its own moment, whatever the clock
has passed over in between (R113). -/
theorem sampleLines_after_low {x : Segment} (hm : x.config.mode = .shared) (hl : x.linesHigh = false) (n : Nat) (a b : Bool) :
    (x.sampleLines n a b).freeSince = n := by simp [sampleLines, timed, hm, hl]

/-- In SHARED mode a sample with a line low starts the bus-free count at its own moment (R113). -/
theorem sampleLines_low {x : Segment} (hm : x.config.mode = .shared) (n : Nat) {a b : Bool} (h : a = true ∨ b = true) :
    (x.sampleLines n a b).freeSince = n := by rcases h with rfl | rfl <;> simp [sampleLines, timed, hm]

/-- Two samples with both lines high leave the bus-free count as it runs (R113). -/
theorem sampleLines_high {x : Segment} (hl : x.linesHigh = true) (n : Nat) :
    (x.sampleLines n false false).freeSince = x.freeSince := by simp [sampleLines, timed, hl]

/-- In SOLE mode the samples do not touch the moment of the last Stop or bus clear (R113). -/
theorem sampleLines_sole {x : Segment} (hm : x.config.mode = .sole) (n : Nat) (a b : Bool) :
    (x.sampleLines n a b).freeSince = x.freeSince := by simp [sampleLines, timed, hm]

theorem withConfig_ok {x : Segment} (h : SegmentOk x) (hs : x.state = .disabled) (c : ConfigChange) :
    SegmentOk (x.withConfig c) := by
  obtain ⟨h1, h2, h3, h4, hi, h5, h6, h7, h8⟩ := h
  exact ⟨h1, h2, h3, h4, hi, h5, h6, h7, by simp [withConfig, hs]⟩

theorem takeEnable_ok {x : Segment} (h : SegmentOk x) : SegmentOk x.takeEnable.seg := by
  unfold takeEnable
  split <;> first | exact h | exact ok_driven (enterClearing_ok x) _

theorem takeRecover_ok {x : Segment} (h : SegmentOk x) : SegmentOk x.takeRecover.seg := by
  unfold takeRecover
  split <;> first | exact h | exact ok_driven (enterClearing_ok x) _

theorem closeOwned_ok {x : Segment} (h : SegmentOk x) (hs : x.state = .owned) : SegmentOk x.closeOwned.seg := by
  unfold closeOwned
  split
  · rename_i hb
    have hn := begun_asks h hb
    obtain ⟨h1, h2, h3, h4, hi, h5, h6, h7, h8⟩ := h
    constructor <;> simp_all [loseOwner, List.length_take, List.take_eq_nil_iff, List.head?_take]
  · exact loseOwner_stop_ok h hs .closing [] (.inr ⟨rfl, rfl⟩)

theorem takeDisable_ok {x : Segment} (h : SegmentOk x) : SegmentOk x.takeDisable.seg := by
  have ha := h.attempts.1
  unfold takeDisable
  split
  · exact closeOwned_ok h ‹_›
  · constructor <;> simp_all [atRest]
  · obtain ⟨h1, h2, h3, h4, hi, h5, h6, h7, h8⟩ := h
    constructor <;> simp_all
  · constructor <;> simp_all [atRest]
  · have := h.queue
    constructor <;> simp_all [atRest]
  all_goals exact h

theorem takeRestart_ok {x : Segment} (h : SegmentOk x) : SegmentOk x.takeRestart.seg := by
  unfold takeRestart
  split
  · rename_i hs
    have hq : SegmentOk { x with queue := [] } := by
      obtain ⟨h1, h2, h3, h4, hi, h5, h6, h7, h8⟩ := h
      exact ⟨h1, by simp, h3, h4, hi, h5, h6, h7, h8⟩
    exact enterReleasing_ok hq hs
  all_goals first
    | exact h
    | (obtain ⟨h1, h2, h3, h4, hi, h5, h6, h7, h8⟩ := h; exact ⟨h1, by simp, h3, h4, hi, h5, h6, h7, h8⟩)

theorem reset_ok : SegmentOk Segment.reset := by
  constructor <;> simp [Segment.reset]

end Segment

/-! ### All segments -/

/-- An event at a segment changes no other segment. -/
theorem onSegment_seg (s : State) (g h : SegIx) (r : SegStep) :
    (s.onSegment g r).seg h = if h = g then r.seg.timed s.now else s.seg h := by
  unfold State.onSegment
  obtain ⟨n, a, e⟩ := State.raiseAll_only ((s.setSeg g (r.seg.timed s.now)).deliver g r.sends) r.raises
  obtain ⟨ps, f⟩ := State.deliver_only (s.setSeg g (r.seg.timed s.now)) g r.sends
  rw [e, f]
  exact State.seg_setSeg s g h (r.seg.timed s.now)

theorem segmentsOk_onSegment {s : State} (h : segmentsOk s) (g : SegIx) {r : SegStep} (hr : SegmentOk r.seg) :
    segmentsOk (s.onSegment g r) := by
  intro k
  rw [onSegment_seg]
  split
  · exact ⟨Segment.timed_ok hr s.now, Segment.timed_timerOk r.seg s.now⟩
  · exact h k

/-- Soundness of the segments reads the segments only. -/
theorem segmentsOk_congr {s t : State} (e : t.segments = s.segments) (h : segmentsOk s) : segmentsOk t := by
  intro g
  have : t.seg g = s.seg g := by simp [State.seg, e]
  rw [this]; exact h g

end Sys2Proof.Machine
end

