-- ==== Sys2Proof/Laws/Records.lean ====
section
/-! SUPPORT. What a valid record image gives (R14 to R16, R209). -/

namespace Sys2Proof.Machine

/-- A valid image passes every one of the eight checks (R14). -/
theorem Image.firstFailure_none {i : Image} (h : i.firstFailure = none) :
    i.check1 = true ∧ i.check2 = true ∧ i.check3 = true ∧ i.check4 = true ∧ i.check5 = true ∧ i.check6 = true ∧
      i.check7 = true ∧ i.check8 = true := by
  unfold Image.firstFailure at h
  split at h <;> try simp at h
  split at h <;> try simp at h
  split at h <;> try simp at h
  split at h <;> try simp at h
  split at h <;> try simp at h
  split at h <;> try simp at h
  split at h <;> try simp at h
  simp_all

/-- A field that its image gives back is not present with the value 0 (R208). -/
theorem present_orZero_ne {w : Nat} (x : Option (BitVec w)) (h : present? (orZero x) = x) : x ≠ some 0#w := by
  rintro rfl; simp [present?, orZero] at h

/-- A threshold that a valid record gives is at least 1 (R14). -/
theorem Record.valid_threshold {r : Record} (h : r.valid) : r.threshold ≠ some 0#4 := by
  have := congrArg Record.threshold h.1
  exact present_orZero_ne _ this

/-- A valid LOCAL record has no lifetime (R16). -/
theorem Record.valid_local {r : Record} (h : r.valid) (ht : r.target = .localPart) : r.lifetime = none := by
  have h8 := (Image.firstFailure_none h.2).2.2.2.2.2.2.2
  have hl := congrArg Record.lifetime h.1
  simp [Image.check8, Image.isSegment, Record.image, ht, Record.kindCode] at h8
  have : present? (orZero r.lifetime) = r.lifetime := hl
  rw [← this, h8.2]; rfl

/-- A field that fits a width loses nothing in ten bits (R14). -/
theorem fits_setWidth {x : BitVec 16} {w : Width} (h : Image.fits x w = true) : (x.setWidth 10).setWidth 16 = x := by
  ext i hi
  simp only [BitVec.getElem_setWidth, BitVec.getLsbD_setWidth]
  by_cases c : i < 10
  · simp [c, BitVec.getLsbD_eq_getElem hi]
  · have h : x &&& ~~~((widthMask w).setWidth 16) = 0#16 := by simpa [Image.fits] using h
    have e : (x &&& ~~~((widthMask w).setWidth 16)).getLsbD i = false := by rw [h]; simp
    have m : (widthMask w).getLsbD i = false := BitVec.getLsbD_of_ge _ _ (by omega)
    simp [hi, m] at e
    simp [c, e]

/-- An optional field comes back as the image carries it (R208). -/
theorem orZero_present {w : Nat} (x : BitVec w) : orZero (present? x) = x := by
  unfold present?; split <;> simp_all [orZero]

/-- A width code comes back as it was read (R208). -/
theorem widthCode_of {c : BitVec 4} {w : Width} (h : widthOfCode c = some w) :
    widthCode (if c = 10#4 then .w10 else .w7) = c := by
  unfold widthOfCode at h
  split at h
  · cases h; subst_vars; rfl
  · split at h
    · cases h; subst_vars; rfl
    · simp at h

/-- What check 3 asks of the target fields (R14). -/
theorem Image.check3_fields {i : Image} (h : i.check3 = true) :
    i.kind ≠ 0#2 ∧ i.access ≠ 0#2 ∧
      (i.kind = 1#2 → (∃ w, widthOfCode i.targetWidth = some w ∧ Image.fits i.base w = true) ∧ i.segment.getLsbD 3 = false) ∧
      (i.kind ≠ 1#2 → i.targetWidth = 0#4 ∧ i.segment = 0#4 ∧ i.base = 0#16) := by
  unfold Image.check3 at h
  simp only [Bool.and_eq_true, bne_iff_ne, ne_eq] at h
  obtain ⟨⟨h1, h2⟩, h3⟩ := h
  refine ⟨h1, h2, fun hk => ?_, fun hk => ?_⟩
  · have hs : i.isSegment = true := by simp [Image.isSegment, hk]
    rw [if_pos hs, Bool.and_eq_true] at h3
    refine ⟨?_, by simpa using h3.2⟩
    have h4 := h3.1
    split at h4
    · rename_i w e; exact ⟨w, e, h4⟩
    · simp at h4
  · have hs : ¬ i.isSegment = true := by simp [Image.isSegment, hk]
    rw [if_neg hs] at h3
    simp at h3
    exact ⟨h3.1.1, h3.1.2, h3.2⟩

/-- The record of a valid image gives the image back, field for field (R209). -/
theorem Record.image_ofImage {i : Image} (h : i.firstFailure = none) : (Record.ofImage i).image = i := by
  obtain ⟨c1, c2, c3, c4, c5, c6, c7, c8⟩ := Image.firstFailure_none h
  obtain ⟨mw, tw, key, mask, base, seg, thr, lim, kind, acc, cnt, ports, life⟩ := i
  have k1 : ∃ w, widthOfCode mw = some w ∧ Image.fits key w = true ∧ Image.fits mask w = true := by
    unfold Image.check1 at c1
    split at c1
    · rename_i w e; exact ⟨w, e, by simpa using c1⟩
    · simp at c1
  obtain ⟨w, hw, hk, hm⟩ := k1
  have hp : Record.portBits { u0 := ports.getLsbD 0, u1 := ports.getLsbD 1 } = ports := by
    have : ports.getLsbD 2 = false := by simp [Image.check2] at c2; exact c2.2
    revert this; clear * -; revert ports; decide
  obtain ⟨hkind, hacc, hseg, hoth⟩ := Image.check3_fields c3
  simp only at hkind hacc hseg hoth
  have ha : Record.accessCode (if acc = 1#2 then .read else if acc = 2#2 then .write else .readWrite) = acc := by
    revert hacc; clear * -; revert acc; decide
  have hc : BitVec.ofBool (cnt == 1#1) = cnt := by clear * -; revert cnt; decide
  have w1 := widthCode_of hw
  unfold Record.ofImage Record.image
  by_cases s : kind = 1#2
  · obtain ⟨⟨tw', htw, hb⟩, hs3⟩ := hseg s
    subst s
    have w2 := widthCode_of htw
    have hs : (BitVec.ofFin (seg.setWidth 3).toFin : BitVec 3).setWidth 4 = seg := by
      revert hs3; clear * -; revert seg; decide
    simp only [if_true, Record.kindCode, orZero_present, fits_setWidth hk, fits_setWidth hm, fits_setWidth hb, hp, ha,
      hc, w1, w2, hs]
  · obtain ⟨e1, e2, e3⟩ := hoth s
    by_cases s2 : kind = 2#2
    · subst s2; subst e1; subst e2; subst e3
      simp only [s, if_false, if_true, Record.kindCode, orZero_present, fits_setWidth hk, fits_setWidth hm, hp, ha,
        hc, w1]
    · have : kind = 3#2 := by
        revert hkind s s2; clear * -; revert kind; decide
      subst this; subst e1; subst e2; subst e3
      simp only [s, s2, if_false, Record.kindCode, orZero_present, fits_setWidth hk, fits_setWidth hm, hp, ha, hc,
        w1]

/-- The record of a valid image is valid. -/
theorem Record.valid_ofImage {i : Image} (h : i.firstFailure = none) : (Record.ofImage i).valid := by
  unfold Record.valid
  rw [Record.image_ofImage h]
  exact ⟨rfl, h⟩

end Sys2Proof.Machine
end

