-- ==== Sys2Proof/Laws/Table.lean ====
section
/-! SUPPORT. Every event at a slot keeps it in a sound state, and what each leaves of service and record. -/

namespace Sys2Proof.Machine

namespace Slot

/-- A freed slot is sound (R3). -/
theorem freed_ok (x : Slot) : slotOk x.freed := rfl

/-- A slot holds a sound record wherever it holds one. -/
theorem record_valid {x : Slot} (h : slotOk x) {r : Record} (hr : x.record = some r) : r.valid := by
  cases hs : x.state <;> simp only [slotOk, hs] at h
  · rw [h] at hr; simp [freeWith] at hr
  · obtain ⟨a, ha, e⟩ := h; rw [e] at hr; cases hr; exact ha
  · obtain ⟨a, ha, e, _⟩ := h; rw [e] at hr; cases hr; exact ha
  · obtain ⟨a, t, ha, e, _⟩ := h; rw [e] at hr; cases hr; exact ha
  · obtain ⟨a, ha, e, _⟩ := h; rw [e] at hr; cases hr; exact ha

/-- A reload changes the lease only. -/
theorem reloaded_only (x : Slot) (now : Nat) : ∃ l, x.reloaded now = { x with lease := l } := by
  unfold reloaded; split
  · exact ⟨x.lease, rfl⟩
  · exact ⟨_, rfl⟩

/-- A reload makes the lease of an in-service slot sound (R158, R159). -/
theorem reloaded_lease {x : Slot} {r : Record} (hr : x.record = some r) (now : Nat)
    (hn : r.lifetime = none → x.lease = .none) : leaseOk (x.reloaded now) r := by
  unfold reloaded leaseOk Record.leaseTicks
  cases hl : r.lifetime with
  | none => simp [hr, hl, hn]
  | some n => by_cases c : x.inflight = 0 <;> simp [hr, hl, c]

theorem leaseOk_none {x : Slot} {r : Record} (h : leaseOk x r) (hn : r.lifetime = none) : x.lease = .none := by
  simpa [leaseOk, hn] using h

/-- An in-service slot with another in-flight count and lease is sound when its lease is (R158). -/
theorem service_lease {x : Slot} (h : slotOk x) (hs : x.inService = true) (n : Nat) (l : Lease)
    (hl : ∀ r, x.record = some r → leaseOk x r → leaseOk { x with inflight := n, lease := l } r) :
    slotOk { x with inflight := n, lease := l } := by
  cases hst : x.state <;> simp [inService, hst] at hs <;> simp only [slotOk, hst] at h ⊢
  · obtain ⟨r, hv, hr, hL, hk⟩ := h
    exact ⟨r, hv, hr, hl r hr hL, hk⟩
  · obtain ⟨r, t, hv, hr, hL, ht, hk⟩ := h
    exact ⟨r, t, hv, hr, hl r hr hL, ht, hk⟩

/-- A bind keeps a slot in service sound (R22, R158). -/
theorem bound_ok {x : Slot} (h : slotOk x) (hs : x.inService = true) (now : Nat) : slotOk (x.bound now) := by
  unfold bound
  apply service_lease h hs
  intro r hr hl
  unfold leaseOk at hl ⊢
  split
  · simp_all
  · by_cases c : x.inflight = 0
    · simp_all; obtain ⟨t, e⟩ := hl; simp [e]
    · simp_all; obtain ⟨t, e⟩ := hl; simp [e]

/-- A reload keeps a slot in service sound (R159). -/
theorem reloaded_ok {x : Slot} (h : slotOk x) (hs : x.inService = true) (now : Nat) : slotOk (x.reloaded now) := by
  have hL := fun r (hr : x.record = some r) hn => reloaded_lease hr now hn
  obtain ⟨l, e⟩ := reloaded_only x now
  rw [e] at hL ⊢
  exact service_lease h hs x.inflight l fun r hr hl => hL r hr (leaseOk_none hl)

/-- An unbind of a slot in service keeps it sound (R23). -/
theorem unbound_service_ok {x : Slot} (h : slotOk x) (hs : x.inService = true) (now : Nat) :
    slotOk (if x.inflight - 1 = 0 then ({ x with inflight := x.inflight - 1 } : Slot).reloaded now
      else { x with inflight := x.inflight - 1 }) := by
  split
  · obtain ⟨l, e⟩ := reloaded_only { x with inflight := x.inflight - 1 } now
    have hL := fun r (hr : x.record = some r) hn => reloaded_lease (x := { x with inflight := x.inflight - 1 }) hr now hn
    rw [e] at hL ⊢
    exact service_lease h hs _ l fun r hr hl => hL r hr (leaseOk_none (x := x) hl)
  · apply service_lease h hs (x.inflight - 1) x.lease
    intro r hr hl
    unfold leaseOk at hl ⊢
    have : ¬ x.inflight = 0 := by omega
    split <;> simp_all

/-- An unbind keeps a slot sound (R23). -/
theorem unbound_ok {x : Slot} (h : slotOk x) (gen : BitVec 8) (now : Nat) : slotOk (x.unbound gen now).1 := by
  unfold unbound
  split
  · exact h
  · simp only
    split
    · exact h
    · exact h
    · exact unbound_service_ok h (by simp [inService, *]) now
    · exact unbound_service_ok h (by simp [inService, *]) now
    · rename_i hs
      split
      · rfl
      · simp only [slotOk, hs] at h ⊢
        obtain ⟨r, hv, hr, hm, hi, hl⟩ := h
        exact ⟨r, hv, hr, hm, by omega, hl⟩

/-- A LIVE slot without strikes is sound (R164). -/
theorem live_ok {x : Slot} {r : Record} (hs : x.state = .live) (hv : r.valid) (hr : x.record = some r) (hl : leaseOk x r)
    (hk : x.strikes = 0) : slotOk x := by
  simp only [slotOk, hs]
  refine ⟨r, hv, hr, hl, ?_⟩
  split
  · exact hk
  · rename_i t e
    rcases Nat.eq_zero_or_pos t.toNat with c | c
    · exact absurd (e.trans (congrArg some (BitVec.eq_of_toNat_eq (y := 0#4) c))) (Record.valid_threshold hv)
    · omega

/-- An acceptance report keeps a slot sound (R80). -/
theorem accepted_ok {x : Slot} (h : slotOk x) (gen : BitVec 8) (now : Nat) : slotOk (x.accepted gen now) := by
  unfold accepted
  split
  · exact h
  · split
    · rename_i hs
      have h' := h
      simp only [slotOk, hs] at h'
      obtain ⟨r, hv, hr, hl, hk⟩ := h'
      exact reloaded_ok (live_ok (x := { x with strikes := 0 }) hs hv hr hl rfl) (by simp [inService, hs]) now
    · exact reloaded_ok h (by simp [inService, *]) now
    all_goals exact h

/-- A refusal report keeps a slot sound (R165, R166). -/
theorem refused_ok {x : Slot} (h : slotOk x) (gen : BitVec 8) : slotOk (x.refused gen).1 := by
  unfold refused
  split
  · exact h
  · split
    · rename_i hs
      have h' := h
      simp only [slotOk, hs] at h'
      obtain ⟨r, hv, hr, hl, hk⟩ := h'
      split
      · exact h
      · rename_i t e
        have e : r.threshold = some t := by simpa [hr] using e
        simp only [e] at hk
        split
        · rename_i c
          simp only [slotOk]
          exact ⟨r, t, hv, hr, hl, e, c⟩
        · simp only [slotOk, hs]
          refine ⟨r, hv, hr, hl, ?_⟩
          simp only [e]; omega
    all_goals exact h

/-- REVIVE keeps a slot sound (R172). -/
theorem revived_ok {x : Slot} (h : slotOk x) (hs : x.state = .quarantined) (now : Nat) : slotOk (x.revived now) := by
  simp only [slotOk, hs] at h
  obtain ⟨r, t, hv, hr, hl, ht, hk⟩ := h
  exact reloaded_ok (live_ok (x := { x with state := .live, strikes := 0 }) rfl hv hr hl rfl) rfl now

/-- A mark on an in-service slot keeps it sound (R17). -/
theorem marked_ok {x : Slot} (h : slotOk x) (hs : x.inService = true) (m : Bool) : slotOk { x with mark := m } := by
  cases hst : x.state <;> simp [inService, hst] at hs <;> simp only [slotOk, hst] at h ⊢ <;> exact h

/-- A slot without a mark outside service: a mark stands on an in-service slot only (R17). -/
theorem mark_in_service {x : Slot} (h : slotOk x) (hm : x.mark = true) : x.inService = true := by
  cases hst : x.state <;> simp only [slotOk, hst] at h
  · rw [h] at hm; simp [freeWith] at hm
  · obtain ⟨r, hv, e⟩ := h; rw [e] at hm; simp [freeWith] at hm
  · simp [inService, hst]
  · simp [inService, hst]
  · obtain ⟨r, hv, hr, hk, _⟩ := h; simp [hk] at hm

/-- An applied commit keeps a slot sound (R145). -/
theorem committed_ok {x : Slot} (h : slotOk x) (now : Nat) : slotOk (x.committed now) := by
  unfold committed
  split
  · rename_i hs
    simp only [slotOk, hs] at h
    obtain ⟨r, hv, e⟩ := h
    have hr : x.record = some r := by rw [e]
    have hi : x.inflight = 0 := by rw [e]; rfl
    have hL := reloaded_lease (x := { x with state := .live, strikes := 0 }) hr now (fun _ => by rw [e]; rfl)
    obtain ⟨l, f⟩ := reloaded_only { x with state := .live, strikes := 0 } now
    rw [f] at hL ⊢
    exact live_ok rfl hv hr hL rfl
  · split
    · rename_i hs hm
      have hsv := mark_in_service h hm
      split
      · rfl
      · rename_i hi
        have key : ∀ r, r.valid → x.record = some r → leaseOk x r →
            slotOk { x with state := .draining, mark := false } := by
          intro r hv hr hl
          simp only [slotOk]
          refine ⟨r, hv, hr, trivial, by omega, ?_⟩
          intro t e
          have e : x.lease = .running t := e
          unfold leaseOk at hl
          split at hl
          · rw [hl] at e; cases e
          · obtain ⟨k, e'⟩ := hl; rw [e'] at e; cases e
        cases hst : x.state <;> simp [inService, hst] at hsv <;> simp only [slotOk, hst] at h
        · obtain ⟨r, hv, hr, hl, _⟩ := h; exact key r hv hr hl
        · obtain ⟨r, t, hv, hr, hl, _⟩ := h; exact key r hv hr hl
    · exact h

/-- An abandoned change set keeps a slot sound (R149). -/
theorem abandoned_ok {x : Slot} (h : slotOk x) : slotOk x.abandoned := by
  unfold abandoned
  split
  · rfl
  · cases hst : x.state <;> simp only [slotOk, hst] at h ⊢
    · rw [h]; rfl
    · simp_all
    · exact h
    · exact h
    · obtain ⟨r, hv, hr, hm, hi, hl⟩ := h; exact ⟨r, hv, hr, trivial, hi, hl⟩

/-- The management slot is sound (R24). -/
theorem managementSlot_ok (straps : BitVec 2) (gen : BitVec 8) : slotOk (managementSlot straps gen) := by
  have hv : ∀ b : BitVec 2, Record.ofImage (managementRecord b).image = managementRecord b ∧
      (managementRecord b).image.firstFailure = none := by decide
  refine live_ok rfl (hv straps) rfl ?_ rfl
  simp [leaseOk, managementRecord, managementSlot]

/-! ### What the events leave of service and record -/

/-- What an event that neither activates nor frees a slot keeps: service, record, and neither STAGED nor a mark gained. -/
structure Kept (x y : Slot) : Prop where
  service : y.inService = x.inService
  record : y.record = x.record
  staged : y.state = .staged → x.state = .staged
  mark : y.mark = x.mark

theorem Kept.refl (x : Slot) : Kept x x := ⟨rfl, rfl, id, rfl⟩

theorem bound_kept (x : Slot) (now : Nat) : Kept x (x.bound now) := ⟨rfl, rfl, id, rfl⟩

theorem reloaded_kept (x : Slot) (now : Nat) : Kept x (x.reloaded now) := by
  obtain ⟨l, e⟩ := reloaded_only x now
  rw [e]; exact ⟨rfl, rfl, id, rfl⟩

theorem Kept.trans {x y z : Slot} (a : Kept x y) (b : Kept y z) : Kept x z :=
  ⟨b.service.trans a.service, b.record.trans a.record, fun h => a.staged (b.staged h), b.mark.trans a.mark⟩

theorem accepted_kept (x : Slot) (gen : BitVec 8) (now : Nat) : Kept x (x.accepted gen now) := by
  unfold accepted
  split
  · exact Kept.refl x
  · split
    · exact Kept.trans (y := { x with strikes := 0 }) ⟨rfl, rfl, id, rfl⟩ (reloaded_kept _ now)
    · exact reloaded_kept x now
    all_goals exact Kept.refl x

theorem refused_kept (x : Slot) (gen : BitVec 8) : Kept x (x.refused gen).1 := by
  unfold refused
  split
  · exact Kept.refl x
  · split
    · rename_i hs
      split
      · exact Kept.refl x
      · split
        · exact ⟨by simp [inService, hs], rfl, by simp, rfl⟩
        · exact ⟨rfl, rfl, id, rfl⟩
    all_goals exact Kept.refl x

theorem revived_kept {x : Slot} (hs : x.state = .quarantined) (now : Nat) : Kept x (x.revived now) :=
  Kept.trans (y := { x with state := .live, strikes := 0 }) ⟨by simp [inService, hs], rfl, by simp, rfl⟩
    (reloaded_kept _ now)

/-- An unbind keeps a slot, or frees one that was out of service. -/
theorem unbound_kept (x : Slot) (gen : BitVec 8) (now : Nat) :
    Kept x (x.unbound gen now).1 ∨ (x.inService = false ∧ (x.unbound gen now).1 = x.freed) := by
  unfold unbound
  split
  · exact .inl (Kept.refl x)
  · simp only
    have key : Kept x (if x.inflight - 1 = 0 then ({ x with inflight := x.inflight - 1 } : Slot).reloaded now
        else { x with inflight := x.inflight - 1 }) := by
      split
      · exact Kept.trans (y := { x with inflight := x.inflight - 1 }) ⟨rfl, rfl, id, rfl⟩ (reloaded_kept _ now)
      · exact ⟨rfl, rfl, id, rfl⟩
    split
    · exact .inl (Kept.refl x)
    · exact .inl (Kept.refl x)
    · exact .inl key
    · exact .inl key
    · rename_i hs
      split
      · exact .inr ⟨by simp [inService, hs], rfl⟩
      · exact .inl ⟨rfl, rfl, id, rfl⟩

end Slot

/-! ### The whole table -/

/-- Soundness of the table reads the table and the change set only. -/
theorem tableOk_congr {s t : State} (h : TableOk s) (ht : t.table = s.table) (hc : t.changeSet = s.changeSet) : TableOk t := by
  have e : ∀ k, t.slot k = s.slot k := fun k => by simp [State.slot, ht]
  obtain ⟨h1, h2, h3, h4⟩ := h
  refine ⟨fun k => by rw [e]; exact h1 k, ?_, ?_, ?_⟩
  · intro c k; rw [e]; exact h2 (hc ▸ c) k
  · intro i j a b; rw [e, e]; exact h3 i j a b
  · intro p; obtain ⟨k, r, w⟩ := h4 p; exact ⟨k, r, by rw [e]; exact w⟩

/-- The table stays sound when every slot stays sound, and keeps its service and record. -/
theorem tableOk_kept {s t : State} (h : TableOk s) (hc : t.changeSet = s.changeSet)
    (hs : ∀ k, slotOk (t.slot k)) (hk : ∀ k, Slot.Kept (s.slot k) (t.slot k)) : TableOk t := by
  obtain ⟨h1, h2, h3, h4⟩ := h
  refine ⟨hs, ?_, ?_, ?_⟩
  · intro c k
    have := h2 (hc ▸ c) k
    exact ⟨fun e => this.1 ((hk k).staged e), (hk k).mark ▸ this.2⟩
  · intro i j a b; rw [(hk i).service, (hk i).record, (hk j).service, (hk j).record]; exact h3 i j a b
  · intro p
    obtain ⟨k, r, w⟩ := h4 p
    exact ⟨k, r, by rw [(hk k).service, (hk k).record]; exact w⟩

/-- One slot changed by an event that keeps its service and record. -/
theorem tableOk_setSlot {s : State} (h : TableOk s) (k : SlotIx) {x : Slot} (hx : slotOk x) (hk : Slot.Kept (s.slot k) x) :
    TableOk (s.setSlot k x) := by
  refine tableOk_kept (t := s.setSlot k x) h rfl ?_ ?_
  · intro j; rw [State.slot_setSlot]; split
    · exact hx
    · exact h.slots j
  · intro j; rw [State.slot_setSlot]; split
    · rename_i e; rw [e]; exact hk
    · exact Slot.Kept.refl _

/-- One slot freed that manages no port. -/
theorem tableOk_freed {s : State} (h : TableOk s) (k : SlotIx)
    (hm : (s.slot k).inService = true → ∀ r p, (s.slot k).record = some r → r.manages p = false) :
    TableOk (s.setSlot k (s.slot k).freed) := by
  have hf : (s.slot k).freed.inService = false := rfl
  refine ⟨fun j => ?_, ?_, ?_, ?_⟩
  · rw [State.slot_setSlot]; split
    · exact Slot.freed_ok _
    · exact h.slots j
  · intro c j
    rw [State.slot_setSlot]; split
    · exact ⟨by simp [Slot.freed, Slot.freeWith], rfl⟩
    · exact h.changeSet c j
  · intro i j a b hij hi hj ha hb
    rw [State.slot_setSlot] at hi ha hj hb
    split at hi
    · simp [hf] at hi
    · rename_i n1; rw [if_neg n1] at ha
      split at hj
      · simp [hf] at hj
      · rename_i n2; rw [if_neg n2] at hb
        exact h.unique i j a b hij hi hj ha hb
  · intro p
    obtain ⟨j, r, hs, hr, hp⟩ := h.managed p
    refine ⟨j, r, ?_⟩
    rw [State.slot_setSlot]
    by_cases e : j = k
    · subst e; have := hm hs r p hr; simp [hp] at this
    · simp [e, hs, hr, hp]

/-- The resulting in-service set of a commit that passes has no duplicates (R141, R142). -/
theorem resulting_unique {s : State} (h : s.duplicateFound = none) (i j : SlotIx) (a b : Record) (hij : i ≠ j)
    (hi : (s.slot i).resulting = true) (hj : (s.slot j).resulting = true) (ha : (s.slot i).record = some a)
    (hb : (s.slot j).record = some b) : a.duplicates b = false := by
  have h1 : s.firstDuplicateOf i = none := by
    have := (List.findSome?_eq_none_iff.1 h) i (List.mem_finRange i)
    simpa using this
  have h2 := (List.find?_eq_none.1 h1) j (List.mem_finRange j)
  simpa [State.duplicatePair, hij, hi, hj, Slot.recordIs, ha, hb] using h2

/-- The resulting in-service set of a commit that passes manages every port (R143). -/
theorem resulting_managed {s : State} (h : s.orphanFound = none) (p : Port) :
    ∃ k r, (s.slot k).resulting = true ∧ (s.slot k).record = some r ∧ r.manages p = true := by
  have h1 := (List.find?_eq_none.1 h) p (by cases p <;> simp)
  have h2 : s.staysManaged p = true := by simpa using h1
  unfold State.staysManaged at h2
  obtain ⟨k, _, hk⟩ := List.any_eq_true.1 h2
  rw [Bool.and_eq_true] at hk
  unfold Slot.recordIs at hk
  cases hr : (s.slot k).record with
  | none => simp [hr] at hk
  | some r => exact ⟨k, r, hk.1, hr, by simpa [hr] using hk.2⟩

/-- An applied commit takes into service exactly the resulting set, with its records (R140, R145). -/
theorem committed_service (x : Slot) (now : Nat) :
    (x.committed now).inService = x.resulting ∧ (x.resulting = true → (x.committed now).record = x.record) := by
  unfold Slot.committed
  split
  · rename_i hs
    obtain ⟨l, e⟩ := Slot.reloaded_only { x with state := .live, strikes := 0 } now
    rw [e]
    simp [Slot.inService, Slot.resulting, hs]
  · rename_i hs
    split
    · rename_i hm
      have hn : (x.state == SlotState.staged) = false := by simpa using hs
      split <;> simp [Slot.resulting, hn, hm, Slot.inService, Slot.freed, Slot.freeWith]
    · rename_i hm
      simp [Slot.resulting, hs, hm, Slot.inService]

/-- A passing commit keeps the table sound (R145). -/
theorem tableOk_apply {s : State} (h : TableOk s) (hd : s.duplicateFound = none) (ho : s.orphanFound = none) :
    TableOk s.applyChangeSet := by
  have e : ∀ k, s.applyChangeSet.slot k = (s.slot k).committed s.now := fun k => State.slot_mapSlots s _ k
  refine ⟨fun k => by rw [e]; exact Slot.committed_ok (h.slots k) _, ?_, ?_, ?_⟩
  · intro _ k
    rw [e]
    have hk := h.slots k
    unfold Slot.committed
    split
    · rename_i hs
      obtain ⟨l, f⟩ := Slot.reloaded_only { s.slot k with state := .live, strikes := 0 } s.now
      rw [f]
      simp only [slotOk, hs] at hk
      obtain ⟨r, hv, g⟩ := hk
      refine ⟨by simp, ?_⟩
      simp only
      rw [g]; rfl
    · rename_i hs
      split
      · split <;> simp [Slot.freed, Slot.freeWith]
      · rename_i hm; exact ⟨hs, by simpa using hm⟩
  · intro i j a b hij hi hj ha hb
    rw [e] at hi hj ha hb
    have ci := committed_service (s.slot i) s.now
    have cj := committed_service (s.slot j) s.now
    rw [ci.1] at hi; rw [cj.1] at hj
    rw [ci.2 hi] at ha; rw [cj.2 hj] at hb
    exact resulting_unique hd i j a b hij hi hj ha hb
  · intro p
    obtain ⟨k, r, hk, hr, hp⟩ := resulting_managed ho p
    have ck := committed_service (s.slot k) s.now
    exact ⟨k, r, by rw [e, ck.1]; exact hk, by rw [e, ck.2 hk]; exact hr, hp⟩

/-- An abandoned change set keeps the table sound (R149). -/
theorem tableOk_abandon {s : State} (h : TableOk s) : TableOk s.abandonChangeSet := by
  have e : ∀ k, s.abandonChangeSet.slot k = (s.slot k).abandoned := fun k => State.slot_mapSlots s _ k
  have hsv : ∀ k, (s.slot k).abandoned.inService = (s.slot k).inService ∧
      ((s.slot k).inService = true → (s.slot k).abandoned.record = (s.slot k).record) := by
    intro k; unfold Slot.abandoned; split
    · rename_i hs
      have : (s.slot k).inService = false := by simp [Slot.inService, hs]
      exact ⟨this.symm, fun c => by simp [this] at c⟩
    · exact ⟨rfl, fun _ => rfl⟩
  refine ⟨fun k => by rw [e]; exact Slot.abandoned_ok (h.slots k), ?_, ?_, ?_⟩
  · intro _ k; rw [e]; unfold Slot.abandoned; split
    · simp [Slot.freed, Slot.freeWith]
    · rename_i hs; exact ⟨hs, rfl⟩
  · intro i j a b hij hi hj ha hb
    rw [e] at hi hj ha hb
    rw [(hsv i).1] at hi; rw [(hsv j).1] at hj
    rw [(hsv i).2 hi] at ha; rw [(hsv j).2 hj] at hb
    exact h.unique i j a b hij hi hj ha hb
  · intro p
    obtain ⟨k, r, hk, hr, hp⟩ := h.managed p
    exact ⟨k, r, by rw [e, (hsv k).1]; exact hk, by rw [e, (hsv k).2 hk]; exact hr, hp⟩

/-- A table with the management route alone is sound (R24, R25, R42). -/
theorem tableOk_restarted {s : State} (straps : BitVec 2) (gen : BitVec 8)
    (h0 : s.slot 0 = managementSlot straps gen) (hk : ∀ k, k ≠ 0 → s.slot k = (s.slot k).freed) : TableOk s := by
  have hf : ∀ k, k ≠ 0 → (s.slot k).inService = false := fun k e => by rw [hk k e]; rfl
  refine ⟨fun k => ?_, ?_, ?_, ?_⟩
  · by_cases e : k = 0
    · rw [e, h0]; exact Slot.managementSlot_ok straps gen
    · rw [hk k e]; exact Slot.freed_ok _
  · intro _ k
    by_cases e : k = 0
    · rw [e, h0]; exact ⟨by simp [managementSlot], rfl⟩
    · rw [hk k e]; exact ⟨by simp [Slot.freed, Slot.freeWith], rfl⟩
  · intro i j a b hij hi hj
    by_cases e : i = 0
    · have : j ≠ 0 := fun f => hij (e.trans f.symm)
      simp [hf j this] at hj
    · simp [hf i e] at hi
  · intro p
    exact ⟨0, managementRecord straps, by rw [h0]; rfl, by rw [h0]; rfl, by cases p <;> rfl⟩

end Sys2Proof.Machine
end

