-- ==== Sys2Proof/Laws/Sound.lean ====
section
/-! SUPPORT. Each operation of the machine keeps every soundness condition: what the meanings are put together from. -/

namespace Sys2Proof.Machine

/-- State `t`, reached from `s`, is sound in each of the five ways in which `s` is. -/
structure Keeps (s t : State) : Prop where
  notices : noticesOk s → noticesOk t
  segments : segmentsOk s → segmentsOk t
  ports : portsOk s → portsOk t
  table : TableOk s → TableOk t
  settings : SettingsOk s → SettingsOk t

namespace Keeps

theorem refl (s : State) : Keeps s s := ⟨id, id, id, id, id⟩

theorem trans {s t u : State} (a : Keeps s t) (b : Keeps t u) : Keeps s u :=
  ⟨b.notices ∘ a.notices, b.segments ∘ a.segments, b.ports ∘ a.ports, b.table ∘ a.table, b.settings ∘ a.settings⟩

end Keeps

/-! ### Soundness of the settings reads the interpreter, the hold limits and the timeouts -/

theorem settingsOk_congr {s t : State} (h : SettingsOk s) (hi : t.interp = s.interp)
    (hp : ∀ p, (t.port p).holdLimit = (s.port p).holdLimit)
    (hg : ∀ g, (t.seg g).config.timeout = (s.seg g).config.timeout) : SettingsOk t := by
  have e : ∀ p, t.interpOf p = s.interpOf p := fun p => by simp [State.interpOf, hi]
  exact ⟨fun p => by rw [e]; exact h.buffers p, fun p x hx => by rw [e] at hx; exact h.executions p x hx,
    fun p => by rw [hp]; exact h.holdLimits p, fun g => by rw [hg]; exact h.timeouts g⟩

/-- Soundness of the ports reads the ports only. -/
theorem portsOk_congr {s t : State} (h : portsOk s) (e : t.ports = s.ports) : portsOk t := by
  intro p
  have : t.port p = s.port p := by simp [State.port, e]
  rw [this]; exact h p

/-- A change of the notice set, ALERT and the clock alone keeps everything but what is shown of the notices. -/
theorem Keeps.quiet {s t : State} (hn : noticesOk s → noticesOk t) (hg : t.segments = s.segments) (hp : t.ports = s.ports)
    (ht : t.table = s.table) (hc : t.changeSet = s.changeSet) (hi : t.interp = s.interp) : Keeps s t where
  notices := hn
  segments := segmentsOk_congr hg
  ports := fun h => portsOk_congr h hp
  table := fun h => tableOk_congr h ht hc
  settings := fun h => settingsOk_congr h hi (fun p => by simp [State.port, hp]) (fun g => by simp [State.seg, hg])

theorem keeps_advanceTo (s : State) (t : Nat) : Keeps s (s.advanceTo t) :=
  Keeps.quiet (fun h => noticesOk_congr h rfl rfl rfl) rfl rfl rfl rfl rfl

theorem keeps_raise (s : State) (n : Notice) : Keeps s (s.raise n) :=
  Keeps.quiet (fun h => noticesOk_raise h n) rfl rfl rfl rfl rfl

theorem keeps_raiseIf (s : State) (b : Bool) (n : Notice) : Keeps s (s.raiseIf b n) := by
  cases b
  · exact Keeps.refl s
  · exact keeps_raise s n

theorem keeps_clearKinds (s : State) (mask : Byte) : Keeps s (s.clearKinds mask) :=
  Keeps.quiet (fun h => noticesOk_clearKinds h mask) rfl rfl rfl rfl rfl

theorem keeps_emptyNotices (s : State) : Keeps s s.emptyNotices :=
  Keeps.quiet (fun _ => noticesOk_emptyNotices s) rfl rfl rfl rfl rfl

theorem keeps_globalConfig (s : State) (mask idle : Byte) : Keeps s { s.withAlertMask mask with idleLimit := idle } :=
  Keeps.quiet (fun h => noticesOk_congr (noticesOk_withAlertMask h mask) rfl rfl rfl) rfl rfl rfl rfl rfl

/-! ### Ports -/

/-- A port controller replaced by a sound one with the same hold limit. -/
theorem keeps_setPort (s : State) (p : Port) {q : PortCtl} (hq : PortOk (s.port p) → PortOk q)
    (hl : q.holdLimit = (s.port p).holdLimit) : Keeps s (s.setPort p q) where
  notices := fun h => noticesOk_congr h rfl rfl rfl
  segments := segmentsOk_congr rfl
  ports := fun h r => by
    rw [State.port_setPort]; split
    · exact hq (h p)
    · exact h r
  table := fun h => tableOk_congr h rfl rfl
  settings := fun h => settingsOk_congr h rfl (fun r => by
    rw [State.port_setPort]; split
    · rename_i e; rw [e]; exact hl
    · rfl) (fun _ => rfl)

/-- A port's event that may raise MISS (R34, R61). -/
theorem keeps_onPortMiss (s : State) (p : Port) {r : PortCtl × Bool} (hq : PortOk (s.port p) → PortOk r.1)
    (hl : r.1.holdLimit = (s.port p).holdLimit) : Keeps s (s.onPortMiss p r) :=
  (keeps_setPort s p hq hl).trans (keeps_raiseIf _ _ _)

/-- A message taken by its port (R107). -/
theorem keeps_takeMessage (s : State) (p : Port) (g : SegIx) {f : PortMsg → PortCtl → Option PortCtl}
    (hf : ∀ m q r, f m q = some r → (PortOk q → PortOk r) ∧ r.holdLimit = q.holdLimit) :
    Keeps s (s.takeMessage p g f) := by
  rcases State.takeMessage_only s p g f with e | ⟨m, rest, q, hq, e⟩ <;> rw [e]
  · exact Keeps.refl s
  · have := hf m _ q hq
    exact keeps_setPort s p (fun h => this.1 (PortCtl.ok_messages h _ _ _ _ _ _)) this.2

/-- A hold limit of 1 or more stored (R190). -/
theorem keeps_holdLimit (s : State) (p : Port) {l : Byte} (hl : SettingsOk s → l ≠ 0#8) :
    Keeps s (s.onPort p fun q => { q with holdLimit := l }) where
  notices := fun h => noticesOk_congr h rfl rfl rfl
  segments := segmentsOk_congr rfl
  ports := fun h r => by
    rw [State.port_onPort]; split
    · exact PortCtl.ok_messages (h p) _ _ _ _ _ _
    · exact h r
  table := fun h => tableOk_congr h rfl rfl
  settings := fun h => ⟨h.buffers, h.executions, fun r => by
    rw [State.port_onPort]; split
    · exact hl h
    · exact h.holdLimits r, h.timeouts⟩

/-! ### Segments -/

/-- An event at a segment that keeps it sound and keeps its timeout. -/
theorem keeps_onSegment (s : State) (g : SegIx) {r : SegStep} (hr : SegmentOk (s.seg g) → SegmentOk r.seg)
    (ht : r.seg.config.timeout = (s.seg g).config.timeout) : Keeps s (s.onSegment g r) where
  notices := fun h => noticesOk_onSegment h g r
  segments := fun h => segmentsOk_onSegment h g (hr (h g).1)
  ports := fun h p => by
    obtain ⟨n, a, e⟩ := State.raiseAll_only ((s.setSeg g (r.seg.timed s.now)).deliver g r.sends) r.raises
    obtain ⟨ms, f⟩ := State.deliver_port (s.setSeg g (r.seg.timed s.now)) g r.sends p
    have : (s.onSegment g r).port p = { s.port p with fromSegments := ms } := by
      unfold State.onSegment; rw [e]; exact f
    rw [this]; exact PortCtl.ok_messages (h p) _ _ _ _ _ _
  table := fun h => by
    obtain ⟨n, a, e⟩ := State.raiseAll_only ((s.setSeg g (r.seg.timed s.now)).deliver g r.sends) r.raises
    obtain ⟨ps, f⟩ := State.deliver_only (s.setSeg g (r.seg.timed s.now)) g r.sends
    unfold State.onSegment; rw [e, f]; exact tableOk_congr h rfl rfl
  settings := fun h => by
    obtain ⟨n, a, e⟩ := State.raiseAll_only ((s.setSeg g (r.seg.timed s.now)).deliver g r.sends) r.raises
    obtain ⟨ps, f⟩ := State.deliver_only (s.setSeg g (r.seg.timed s.now)) g r.sends
    refine settingsOk_congr h ?_ ?_ ?_
    · unfold State.onSegment; rw [e, f]; rfl
    · intro p
      obtain ⟨ms, k⟩ := State.deliver_port (s.setSeg g (r.seg.timed s.now)) g r.sends p
      have : (s.onSegment g r).port p = { s.port p with fromSegments := ms } := by
        unfold State.onSegment; rw [e]; exact k
      rw [this]
    · intro k
      rw [onSegment_seg]; split
      · rename_i e; rw [e]; exact ht
      · rfl

/-- A configuration stored in DISABLED (R99). -/
theorem keeps_withConfig (s : State) (g : SegIx) {c : ConfigChange} (hd : (s.seg g).state = .disabled)
    (hc : SettingsOk s → c.timeout ≠ some 0#8) : Keeps s (s.setSeg g ((s.seg g).withConfig c)) where
  notices := fun h => noticesOk_congr h rfl rfl rfl
  segments := fun h k => by
    rw [State.seg_setSeg]; split
    · exact ⟨Segment.withConfig_ok (h g).1 hd c, (h g).2⟩
    · exact h k
  ports := fun h => portsOk_congr h rfl
  table := fun h => tableOk_congr h rfl rfl
  settings := fun h => ⟨h.buffers, h.executions, h.holdLimits, fun k => by
    rw [State.seg_setSeg]; split
    · simp only [Segment.withConfig]
      cases e : c.timeout with
      | none => exact h.timeouts g
      | some t => intro f; apply hc h; rw [e]; exact congrArg some f
    · exact h.timeouts k⟩

/-! ### The table -/

/-- A change of the table, the change set and the straps alone. -/
theorem Keeps.ofTable {s t : State} (ht : TableOk s → TableOk t)
    (he : ∃ a b c, t = { s with table := a, changeSet := b, straps := c }) : Keeps s t := by
  obtain ⟨a, b, c, rfl⟩ := he
  exact ⟨fun h => noticesOk_congr h rfl rfl rfl, segmentsOk_congr rfl, fun h => portsOk_congr h rfl, ht,
    fun h => settingsOk_congr h rfl (fun _ => rfl) (fun _ => rfl)⟩

/-- One slot changed by an event that keeps it sound, in service as it was, with its record. -/
theorem keeps_setSlot (s : State) (k : SlotIx) {x : Slot} (hx : slotOk (s.slot k) → slotOk x)
    (hk : Slot.Kept (s.slot k) x) : Keeps s (s.setSlot k x) :=
  Keeps.ofTable (fun h => tableOk_setSlot h k (hx (h.slots k)) hk) ⟨_, _, _, rfl⟩

/-- A reload of the idle deadline keeps the change set OPEN or EMPTY (R132). -/
theorem keeps_reloadIdle (s : State) : Keeps s s.reloadIdle := by
  unfold State.reloadIdle
  split
  · exact Keeps.refl s
  · rename_i o d e
    refine Keeps.ofTable (fun h => ?_) ⟨s.table, _, s.straps, rfl⟩
    exact ⟨h.slots, fun c => (by cases c), h.unique, h.managed⟩

theorem reloadIdle_only (s : State) : ∃ c, s.reloadIdle = { s with changeSet := c } := by
  unfold State.reloadIdle; split
  · exact ⟨s.changeSet, rfl⟩
  · exact ⟨_, rfl⟩

/-- While the change set is OPEN, a STAGED slot freed (R135). -/
theorem tableOk_unstaged {s : State} (h : TableOk s) (k : SlotIx) (hs : (s.slot k).state = .staged) :
    TableOk (s.setSlot k (s.slot k).freed) :=
  tableOk_freed h k (fun c => by simp [Slot.inService, hs] at c)

/-- The change set opened, with one slot replaced that stays out of service or in service with its record (R134, R136). -/
theorem tableOk_openFor {s : State} (h : TableOk s) (p : Port) (k : SlotIx) {x : Slot} (hx : slotOk x)
    (hs : (x.inService = false ∧ (s.slot k).inService = false) ∨
      (x.inService = (s.slot k).inService ∧ x.record = (s.slot k).record)) : TableOk ((s.setSlot k x).openFor p) := by
  have e : ∀ j, ((s.setSlot k x).openFor p).slot j = if j = k then x else s.slot j := fun j => State.slot_setSlot s k j x
  have hsv : ∀ j, (((s.setSlot k x).openFor p).slot j).inService = (s.slot j).inService := by
    intro j; rw [e]; split
    · rename_i f; subst f; rcases hs with hs | hs
      · rw [hs.1, hs.2]
      · exact hs.1
    · rfl
  have hrec : ∀ j, (s.slot j).inService = true → (((s.setSlot k x).openFor p).slot j).record = (s.slot j).record := by
    intro j hj; rw [e]; split
    · rename_i f; subst f; rcases hs with hs | hs
      · rw [hs.2] at hj; cases hj
      · exact hs.2
    · rfl
  refine ⟨fun j => ?_, fun c => (by cases c), ?_, ?_⟩
  · rw [e]; split
    · exact hx
    · exact h.slots j
  · intro i j a b hij hi hj ha hb
    rw [hsv] at hi hj
    rw [hrec i hi] at ha; rw [hrec j hj] at hb
    exact h.unique i j a b hij hi hj ha hb
  · intro p
    obtain ⟨j, r, hj, hr, hp⟩ := h.managed p
    exact ⟨j, r, by rw [hsv]; exact hj, by rw [hrec j hj]; exact hr, hp⟩

theorem keeps_takeStage (s : State) (p : Port) (k : SlotIx) (i : Image) : Keeps s (s.takeStage p k i).1 := by
  unfold State.takeStage
  split
  · exact Keeps.refl s
  · split
    · exact keeps_reloadIdle s
    · rename_i hf
      have hf : (s.slot k).state = .free := by simpa using hf
      split
      · exact keeps_reloadIdle s
      · rename_i hv
        refine Keeps.ofTable (fun h => ?_) ⟨_, _, _, rfl⟩
        refine tableOk_openFor h p k ⟨Record.ofImage i, Record.valid_ofImage hv, rfl⟩ (.inl ⟨rfl, ?_⟩)
        simp [Slot.inService, hf]

theorem keeps_takeUnstage (s : State) (p : Port) (k : SlotIx) : Keeps s (s.takeUnstage p k).1 := by
  unfold State.takeUnstage
  split
  · exact Keeps.refl s
  · split
    · exact keeps_reloadIdle s
    · rename_i hf
      have hf : (s.slot k).state = .staged := by simpa using hf
      exact (Keeps.ofTable (fun h => tableOk_unstaged h k hf) ⟨_, _, _, rfl⟩ : Keeps s (s.setSlot k _)).trans
        (keeps_reloadIdle _)

theorem keeps_takeMark (s : State) (p : Port) (k : SlotIx) (gen : BitVec 8) : Keeps s (s.takeMark p k gen).1 := by
  unfold State.takeMark
  split
  · exact Keeps.refl s
  · split
    · exact keeps_reloadIdle s
    · split
      · exact keeps_reloadIdle s
      · rename_i hs _
        have hs : (s.slot k).inService = true := by simpa using hs
        exact Keeps.ofTable (fun h => tableOk_openFor h p k (Slot.marked_ok (h.slots k) hs true) (.inr ⟨rfl, rfl⟩))
          ⟨_, _, _, rfl⟩

theorem keeps_takeUnmark (s : State) (p : Port) (k : SlotIx) (gen : BitVec 8) : Keeps s (s.takeUnmark p k gen).1 := by
  unfold State.takeUnmark
  split
  · exact Keeps.refl s
  · split
    · exact keeps_reloadIdle s
    · split
      · exact keeps_reloadIdle s
      · rename_i hs _
        have hs : (s.slot k).inService = true := by simpa using hs
        refine (Keeps.ofTable (fun h => ?_) ⟨_, _, _, rfl⟩ : Keeps s (s.setSlot k { s.slot k with mark := false })).trans
          (keeps_reloadIdle _)
        have e : ∀ j, (s.setSlot k { s.slot k with mark := false }).slot j =
            if j = k then { s.slot k with mark := false } else s.slot j := fun j => State.slot_setSlot s k j _
        refine ⟨fun j => ?_, fun c j => ?_, fun i j a b hij hi hj ha hb => ?_, fun p => ?_⟩
        · rw [e]; split
          · exact Slot.marked_ok (h.slots k) hs false
          · exact h.slots j
        · rw [e]; split
          · exact ⟨(h.changeSet c k).1, rfl⟩
          · exact h.changeSet c j
        · have k1 : (s.slot i).inService = true := by rw [e] at hi; split at hi <;> simp_all [Slot.inService]
          have k2 : (s.slot j).inService = true := by rw [e] at hj; split at hj <;> simp_all [Slot.inService]
          have k3 : (s.slot i).record = some a := by rw [e] at ha; split at ha <;> simp_all
          have k4 : (s.slot j).record = some b := by rw [e] at hb; split at hb <;> simp_all
          exact h.unique i j a b hij k1 k2 k3 k4
        · obtain ⟨j, r, hj, hr, hp⟩ := h.managed p
          refine ⟨j, r, ?_⟩
          rw [e]; split
          · rename_i f; subst f; exact ⟨hj, hr, hp⟩
          · exact ⟨hj, hr, hp⟩

theorem keeps_takeCommit (s : State) (p : Port) : Keeps s (s.takeCommit p).1 := by
  unfold State.takeCommit
  split
  · exact Keeps.refl s
  · split
    · exact Keeps.refl s
    · split
      · exact keeps_reloadIdle s
      · split
        · exact keeps_reloadIdle s
        · rename_i hd _ ho
          exact Keeps.ofTable (fun h => tableOk_apply h hd ho) ⟨_, _, _, rfl⟩

theorem keeps_abandonChangeSet (s : State) : Keeps s s.abandonChangeSet :=
  Keeps.ofTable tableOk_abandon ⟨_, _, _, rfl⟩

theorem keeps_takeAbandon (s : State) (p : Port) : Keeps s (s.takeAbandon p).1 := by
  unfold State.takeAbandon
  split
  · exact Keeps.refl s
  · split
    · exact Keeps.refl s
    · exact keeps_abandonChangeSet s

theorem keeps_takeRenew (s : State) (k : SlotIx) (gen : BitVec 8) : Keeps s (s.takeRenew k gen).1 := by
  unfold State.takeRenew
  split
  · exact Keeps.refl s
  · split
    · exact Keeps.refl s
    · rename_i hs _
      have hs : (s.slot k).inService = true := by
        cases c : (s.slot k).inService
        · simp [c] at hs
        · rfl
      exact keeps_setSlot s k (fun h => Slot.reloaded_ok h hs _) (Slot.reloaded_kept _ _)

theorem keeps_takeRevive (s : State) (k : SlotIx) (gen : BitVec 8) : Keeps s (s.takeRevive k gen).1 := by
  unfold State.takeRevive
  split
  · exact Keeps.refl s
  · split
    · exact Keeps.refl s
    · rename_i hs _
      have hs : (s.slot k).state = .quarantined := by simpa using hs
      exact keeps_setSlot s k (fun h => Slot.revived_ok h hs _) (Slot.revived_kept hs _)

/-- A lookup binds a slot that is in service (R22). -/
theorem lookupBinding_service {s : State} {p : Port} {q : Query} {b : Binding} (h : s.lookupBinding p q = some b) :
    (s.slot b.slot).inService = true := by
  unfold State.lookupBinding at h
  have key : ∀ k r v, s.lookupResult p q = (v, some (k, r)) → (s.slot k).inService = true := by
    intro k r v e
    unfold State.lookupResult at e
    split at e
    · cases e
    · rename_i j hw
      split at e
      · cases e
      · cases e
        have inv : ∀ (l : List SlotIx) (best : Option SlotIx), (∀ i, best = some i → (s.table.get i).inService = true) →
            ∀ i, l.foldl (betterSlot s.table p q) best = some i → (s.table.get i).inService = true := by
          intro l
          induction l with
          | nil => intro best hb i hi; exact hb i hi
          | cons a l ih =>
            intro best hb i hi
            refine ih (betterSlot s.table p q best a) ?_ i hi
            intro j hj
            unfold betterSlot at hj
            split at hj
            · rename_i hc
              have ha : (s.table.get a).inService = true := by
                simp only [Slot.competes, Bool.and_eq_true] at hc; exact hc.1
              split at hj
              · cases hj; exact ha
              · split at hj
                · cases hj; exact ha
                · exact hb j (by simpa using hj)
            · exact hb j hj
        exact inv _ none (by simp) _ hw
  split at h
  · rename_i e
    simp only [Option.map_eq_some_iff] at h
    obtain ⟨_, _, rfl⟩ := h
    exact key _ _ _ e
  · rename_i e
    simp only [Option.map_eq_some_iff] at h
    obtain ⟨_, _, rfl⟩ := h
    exact key _ _ _ e
  · cases h

theorem keeps_bindWinner (s : State) (p : Port) (q : Query) : Keeps s (s.bindWinner (s.lookupBinding p q)) := by
  unfold State.bindWinner
  split
  · rename_i b e
    exact keeps_setSlot s b.slot (fun h => Slot.bound_ok h (lookupBinding_service e) _) (Slot.bound_kept _ _)
  · exact Keeps.refl s

/-- The messages to and from the table manager take no part in soundness. -/
theorem keeps_dropTableMsg (s : State) (p : Port) : Keeps s (s.dropTableMsg p) :=
  keeps_setPort s p (fun h => PortCtl.ok_messages h _ _ _ _ _ _) rfl

theorem keeps_replyTo (s : State) (p : Port) (r : TableReply) : Keeps s (s.replyTo p r) :=
  keeps_setPort s p (fun h => PortCtl.ok_messages h _ _ _ _ _ _) rfl

theorem keeps_dropSegMsg (s : State) (p : Port) : Keeps s (s.dropSegMsg p) :=
  keeps_setPort s p (fun h => PortCtl.ok_messages h _ _ _ _ _ _) rfl

theorem keeps_takeLookup (s : State) (p : Port) (q : Query) : Keeps s (s.takeLookup p q) :=
  (((keeps_bindWinner s p q).trans (keeps_dropTableMsg _ p)).trans (keeps_replyTo _ p _)).trans (keeps_raiseIf _ _ _)

theorem keeps_takePrefixTest (s : State) (p : Port) (h : BitVec 2) : Keeps s (s.takePrefixTest p h) :=
  ((keeps_dropTableMsg s p).trans (keeps_replyTo _ p _)).trans (keeps_raiseIf _ _ _)

/-- An unbind at its slot (R23). -/
theorem keeps_unbound (s : State) (k : SlotIx) (gen : BitVec 8) :
    Keeps s (s.setSlot k ((s.slot k).unbound gen s.now).1) := by
  rcases Slot.unbound_kept (s.slot k) gen s.now with h | ⟨hs, e⟩
  · exact keeps_setSlot s k (fun h => Slot.unbound_ok h _ _) h
  · rw [e]
    exact Keeps.ofTable (fun h => tableOk_freed h k (fun c => by rw [hs] at c; cases c)) ⟨_, _, _, rfl⟩

/-- A running lease stands on no LOCAL route (R13, R16), so its expiry manages no port away (R160). -/
theorem tableOk_expired {s : State} (h : TableOk s) (k : SlotIx) {t : Nat} (hl : (s.slot k).lease = .running t) :
    TableOk (s.setSlot k (s.slot k).freed) := by
  apply tableOk_freed h k
  intro hs r p hr
  have hv := Slot.record_valid (h.slots k) hr
  have hlife : r.lifetime ≠ none := by
    intro e
    have hk := h.slots k
    cases hst : (s.slot k).state <;> simp [Slot.inService, hst] at hs <;> simp only [slotOk, hst] at hk
    · obtain ⟨r', _, hr', hL, _⟩ := hk
      rw [hr] at hr'; cases hr'
      have := Slot.leaseOk_none hL e
      rw [hl] at this; cases this
    · obtain ⟨r', _, _, hr', hL, _⟩ := hk
      rw [hr] at hr'; cases hr'
      have := Slot.leaseOk_none hL e
      rw [hl] at this; cases this
  cases ht : r.target with
  | localPart => exact absurd (Record.valid_local hv ht) hlife
  | segment g w a => simp [Record.manages, ht]
  | deny => simp [Record.manages, ht]

theorem keeps_restartTable (s : State) (straps : BitVec 2) : Keeps s (s.restartTable straps) := by
  refine Keeps.ofTable (fun _ => ?_) ⟨_, _, _, rfl⟩
  have e : ∀ k, (s.restartTable straps).slot k =
      if k = 0 then managementSlot straps ((s.slot 0).gen + 1#8) else (s.slot k).freed := by
    intro k
    by_cases c : k = 0
    · subst c; simp [State.restartTable, State.slot, Vector.get_eq_getElem]
    · have : ¬ (0 = k.val) := fun f => c (Fin.ext f.symm)
      simp [State.restartTable, State.slot, Vector.get_eq_getElem, this, c]
  refine tableOk_restarted straps ((s.slot 0).gen + 1#8) (by rw [e]; rfl) (fun k hk => ?_)
  rw [e, if_neg hk]; rfl

/-! ### The interpreter -/

/-- The interpreter's state of a port replaced by a sound one. -/
theorem keeps_setInterp (s : State) (p : Port) {x : InterpPort} (hb : SettingsOk s → bufferOk x.buffer)
    (he : SettingsOk s → ∀ e, x.execution = some e → executionOk e) : Keeps s (s.setInterp p x) where
  notices := fun h => noticesOk_congr h rfl rfl rfl
  segments := segmentsOk_congr rfl
  ports := fun h => portsOk_congr h rfl
  table := fun h => tableOk_congr h rfl rfl
  settings := fun h => ⟨fun r => by
    rw [State.interpOf_setInterp]; split
    · exact hb h
    · exact h.buffers r, fun r e => by
    rw [State.interpOf_setInterp]; split
    · exact he h e
    · exact h.executions r e, h.holdLimits, h.timeouts⟩

theorem formResponse_length (s : State) {r : Result} (h : resultOk r) : (s.formResponse r).2.length ≤ 30 := by
  cases r with
  | done st pl => exact h
  | statusPart items => simp only [State.formResponse, resultOk] at h ⊢; simp; omega

theorem keeps_writeResponse (s : State) (p : Port) {r : Result} (h : SettingsOk s → resultOk r) :
    Keeps s (s.writeResponse p r) :=
  (keeps_setInterp s p (fun k => ⟨_, _, rfl, formResponse_length s (h k)⟩) (by intro _ e c; cases c)).trans
    (keeps_setPort _ p (fun k => PortCtl.ok_waits k _ _ _ _ _) rfl)

theorem keeps_reply (s : State) (p : Port) (t : ReplyTime) {r : Result} (h : resultOk r) : Keeps s (s.reply p t r) := by
  cases t
  · exact keeps_writeResponse s p (fun _ => h)
  · refine keeps_setInterp s p (fun k => k.buffers p) (fun k e c => ?_)
    simp only [Option.map_eq_some_iff] at c
    obtain ⟨f, _, rfl⟩ := c
    exact h

theorem waitingResult_ok {s : State} (k : SettingsOk s) {p : Port} {r : Result} (h : s.waitingResult p = some r) :
    resultOk r := by
  unfold State.waitingResult at h
  split at h
  · rename_i e he
    have := k.executions p e he
    unfold executionOk at this
    split at h
    · cases h; simp_all
    all_goals cases h
  · cases h

theorem keeps_writeWaiting (s : State) (p : Port) : Keeps s (s.writeWaiting p) := by
  unfold State.writeWaiting
  split
  · rename_i r e; exact keeps_writeResponse s p (fun k => waitingResult_ok k e)
  · exact Keeps.refl s

/-- A command that has passed its checks is sound where the settings are (R179). -/
theorem passedCommand_ok {s : State} (k : SettingsOk s) {p : Port} {c : Command} (h : s.passedCommand p = some c) :
    commandOk c := by
  unfold State.passedCommand at h
  split at h
  · rename_i e he
    have := k.executions p e he
    unfold executionOk at this
    split at h
    · cases h; simp_all
    all_goals cases h
  · cases h

/-! ### The lengths of the payloads (R212) -/

theorem recordPayload_length (now : Nat) (x : Slot) : (recordPayload now x).length = 19 := rfl

theorem segmentPayload_length (x : Segment) : (segmentPayload x).length = 11 := rfl

theorem noticesPayload_length (s : State) : (noticesPayload s).length = 30 := rfl

theorem statusItems_length (s : State) : s.statusItems.length = 11 := by
  unfold State.statusItems State.changeSetBytes
  split <;> rfl

theorem probePayload_length (s : State) (p : Port) (q : Query) : (s.probePayload p q).length = 7 := by
  unfold State.probePayload
  split
  · rfl
  · split <;> rfl

/-! ### The results of the commands (R181) -/

theorem takeStage_result (s : State) (p : Port) (k : SlotIx) (i : Image) : resultOk (s.takeStage p k i).2 := by
  unfold State.takeStage; repeat' split
  all_goals simp [resultOk, State.plain]

theorem takeUnstage_result (s : State) (p : Port) (k : SlotIx) : resultOk (s.takeUnstage p k).2 := by
  unfold State.takeUnstage; repeat' split
  all_goals simp [resultOk, State.plain]

theorem takeMark_result (s : State) (p : Port) (k : SlotIx) (gen : BitVec 8) : resultOk (s.takeMark p k gen).2 := by
  unfold State.takeMark; repeat' split
  all_goals simp [resultOk, State.plain]

theorem takeUnmark_result (s : State) (p : Port) (k : SlotIx) (gen : BitVec 8) : resultOk (s.takeUnmark p k gen).2 := by
  unfold State.takeUnmark; repeat' split
  all_goals simp [resultOk, State.plain]

theorem takeCommit_result (s : State) (p : Port) : resultOk (s.takeCommit p).2 := by
  unfold State.takeCommit; repeat' split
  all_goals simp [resultOk, State.plain, State.commitCounts]

theorem takeAbandon_result (s : State) (p : Port) : resultOk (s.takeAbandon p).2 := by
  unfold State.takeAbandon; repeat' split
  all_goals simp [resultOk, State.plain]

theorem takeRenew_result (s : State) (k : SlotIx) (gen : BitVec 8) : resultOk (s.takeRenew k gen).2 := by
  unfold State.takeRenew; repeat' split
  all_goals simp [resultOk, State.plain, State.lifetimeOf, lifetimeBytes, twoBytes]

theorem takeRevive_result (s : State) (k : SlotIx) (gen : BitVec 8) : resultOk (s.takeRevive k gen).2 := by
  unfold State.takeRevive; repeat' split
  all_goals simp [resultOk, State.plain, State.lifetimeOf, lifetimeBytes, twoBytes]

theorem keeps_takeSegmentConfig (s : State) (g : SegIx) {c : ConfigChange} (hc : SettingsOk s → c.timeout ≠ some 0#8) :
    Keeps s (s.takeSegmentConfig g c).1 := by
  unfold State.takeSegmentConfig
  split
  · exact keeps_withConfig s g ‹_› hc
  all_goals exact Keeps.refl s

theorem takeSegmentConfig_result (s : State) (g : SegIx) (c : ConfigChange) : resultOk (s.takeSegmentConfig g c).2 := by
  unfold State.takeSegmentConfig; split <;> simp [resultOk, okResult]

end Sys2Proof.Machine
end

