-- ==== Sys2Proof/Laws/Kept.lean ====
section
/-! SUPPORT. The events at a segment controller keep its configuration (R99), and the events at a port controller keep its
hold limit (R65, R190). -/

namespace Sys2Proof.Machine

namespace Segment

/-! ### The configuration is kept by every event but SEGMENT_CONFIG (R99) -/

@[simp] theorem beginFirst_config (x : Segment) : x.beginFirst.config = x.config := by
  unfold beginFirst; split <;> rfl

@[simp] theorem enterIdle_config (x : Segment) : x.enterIdle.seg.config = x.config := by
  unfold enterIdle; split <;> rfl

@[simp] theorem enterDisabled_config (x : Segment) : x.enterDisabled.seg.config = x.config := rfl

@[simp] theorem enterClearing_config (x : Segment) : x.enterClearing.config = x.config := rfl

@[simp] theorem atRest_config (x : Segment) (st : SegState) : (x.atRest st).config = x.config := rfl

@[simp] theorem grantTo_config (x : Segment) (p : Port) : (x.grantTo p).seg.config = x.config := rfl

@[simp] theorem makeStart_config (x : Segment) : x.makeStart.config = x.config := rfl

@[simp] theorem loseOwner_config (x : Segment) (st : SegState) : (x.loseOwner st).config = x.config := by
  unfold loseOwner; split <;> rfl

@[simp] theorem stopAtOnce_config (x : Segment) : x.stopAtOnce.seg.config = x.config := by
  unfold stopAtOnce; repeat' split
  all_goals simp

@[simp] theorem enterReleasing_config (x : Segment) : x.enterReleasing.seg.config = x.config := by
  unfold enterReleasing; simp

theorem takeRequest_config (x : Segment) (p : Port) (n : Nat) : (x.takeRequest p n).seg.config = x.config := by
  unfold takeRequest; simp only; split <;> rfl

@[simp] theorem takeRelease_config (x : Segment) (p : Port) : (x.takeRelease p).seg.config = x.config := by
  unfold takeRelease; split <;> simp

theorem takeWithdrawal_config (x : Segment) (p : Port) : (x.takeWithdrawal p).seg.config = x.config := by
  unfold takeWithdrawal; split <;> simp

theorem takeAsk_config (x : Segment) (p : Port) (a : Primitive) : (x.takeAsk p a).seg.config = x.config := by
  unfold takeAsk; repeat' split
  all_goals simp

@[simp] theorem endPrimitive_config (x : Segment) (pos : Position) (m : PortMsg) (d : List Drive) :
    (x.endPrimitive pos m d).seg.config = x.config := by
  unfold endPrimitive; split <;> simp

@[simp] theorem tenBitRestart_config (x : Segment) (d : List Drive) : (x.tenBitRestart d).config = x.config := by
  unfold tenBitRestart; split <;> rfl

theorem comeToRestart_config (x : Segment) : x.comeToRestart.config = x.config := by
  unfold comeToRestart; split <;> simp

theorem addressEnd_config (x : Segment) (n : Nat) : (x.addressEnd n).seg.config = x.config := by
  unfold addressEnd
  split
  · split
    · by_cases h : x.stage = .waiting <;> simp only [h, if_true, if_false] <;> split <;> simp
    · rfl
  all_goals rfl

theorem writeByteEnd_config (x : Segment) (a : Bool) : (x.writeByteEnd a).seg.config = x.config := by
  unfold writeByteEnd; repeat' split
  all_goals simp

theorem readByteEnd_config (x : Segment) (b : Byte) : (x.readByteEnd b).seg.config = x.config := by
  unfold readByteEnd; repeat' split
  all_goals simp

theorem ackBitEnd_config (x : Segment) : x.ackBitEnd.seg.config = x.config := by
  unfold ackBitEnd; repeat' split
  all_goals simp

theorem stopEnd_config (x : Segment) (n : Nat) : (x.stopEnd n).seg.config = x.config := by
  unfold stopEnd; simp only; repeat' split
  all_goals simp

@[simp] theorem loseBus_config (x : Segment) : x.loseBus.seg.config = x.config := by simp [loseBus]

theorem arbitrationLossAddress_config (x : Segment) (n : Nat) : (x.arbitrationLossAddress n).seg.config = x.config := by
  unfold arbitrationLossAddress; simp only; repeat' split
  all_goals simp

theorem arbitrationLoss_config (x : Segment) (n : Nat) : (x.arbitrationLoss n).seg.config = x.config := by
  unfold arbitrationLoss; simp only; repeat' split
  all_goals simp

@[simp] theorem failAttempt_config (x : Segment) (g : SegIx) : (x.failAttempt g).seg.config = x.config := by
  unfold failAttempt; split <;> rfl

theorem clockLowExpiry_config (x : Segment) (g : SegIx) : (x.clockLowExpiry g).seg.config = x.config := by
  unfold clockLowExpiry; repeat' split
  all_goals simp

theorem clearCheck_config (x : Segment) (g : SegIx) (n : Nat) (a b : Bool) :
    (x.clearCheck g n a b).seg.config = x.config := by
  unfold clearCheck; simp only; repeat' split
  all_goals simp

theorem sampleLines_config (x : Segment) (n : Nat) (a b : Bool) : (x.sampleLines n a b).config = x.config := rfl

theorem takeEnable_config (x : Segment) : x.takeEnable.seg.config = x.config := by
  unfold takeEnable; split <;> simp

theorem takeRecover_config (x : Segment) : x.takeRecover.seg.config = x.config := by
  unfold takeRecover; split <;> simp

@[simp] theorem closeOwned_config (x : Segment) : x.closeOwned.seg.config = x.config := by
  unfold closeOwned; split <;> simp

theorem takeDisable_config (x : Segment) : x.takeDisable.seg.config = x.config := by
  unfold takeDisable; split <;> simp

theorem takeRestart_config (x : Segment) : x.takeRestart.seg.config = x.config := by
  unfold takeRestart; split <;> simp

end Segment

namespace PortCtl

/-! ### The hold limit is kept by every event but PORT_CONFIG (R190) -/

@[simp] theorem cancelContext_holdLimit (q : PortCtl) : q.cancelContext.holdLimit = q.holdLimit := by
  unfold cancelContext endHoldOwnAnswer; simp only; repeat' split
  all_goals simp

theorem takeCancellation_holdLimit (q : PortCtl) : q.takeCancellation.holdLimit = q.holdLimit := by
  unfold takeCancellation; split <;> simp

@[simp] theorem newAddressPhase_holdLimit (q : PortCtl) : q.newAddressPhase.holdLimit = q.holdLimit := by
  simp [newAddressPhase]

@[simp] theorem takeStart_holdLimit (q : PortCtl) : q.takeStart.holdLimit = q.holdLimit := by simp [takeStart]

@[simp] theorem takeRestart_holdLimit (q : PortCtl) : q.takeRestart.holdLimit = q.holdLimit := by
  unfold takeRestart; split <;> simp

theorem takeStartCondition_holdLimit (q : PortCtl) : q.takeStartCondition.holdLimit = q.holdLimit := by
  unfold takeStartCondition; repeat' split
  all_goals simp

@[simp] theorem giveUpAtStop_holdLimit (q : PortCtl) : q.giveUpAtStop.holdLimit = q.holdLimit := by
  unfold giveUpAtStop; split <;> simp

theorem takeStop_holdLimit (q : PortCtl) : q.takeStop.holdLimit = q.holdLimit := by
  unfold takeStop; repeat' split
  all_goals simp

@[simp] theorem refuseAddress_holdLimit (q : PortCtl) : q.refuseAddress.holdLimit = q.holdLimit := by
  simp [refuseAddress]

@[simp] theorem refuseCarried_holdLimit (q : PortCtl) : q.refuseCarried.holdLimit = q.holdLimit := by
  simp [refuseCarried]

@[simp] theorem askAddress_holdLimit (q : PortCtl) (w : Width) (a : Addr) (d : Direction) :
    (q.askAddress w a d).holdLimit = q.holdLimit := by simp [askAddress]

@[simp] theorem judgeAddressByte_holdLimit (q : PortCtl) (b : Byte) :
    (q.judgeAddressByte b).1.holdLimit = q.holdLimit := by
  unfold judgeAddressByte judgePrefixWrite judgePrefixRead judgeSevenBit judgeLowByte
  simp only; repeat' split
  all_goals simp

@[simp] theorem takeAddressByte_holdLimit (q : PortCtl) (n : Nat) (b : Byte) :
    (q.takeAddressByte n b).1.holdLimit = q.holdLimit := by
  unfold takeAddressByte; simp only; split <;> simp

theorem takeFirstByte_holdLimit (q : PortCtl) (n : Nat) (b : Byte) : (q.takeFirstByte n b).1.holdLimit = q.holdLimit := by
  unfold takeFirstByte; split <;> simp

theorem takeLowByte_holdLimit (q : PortCtl) (n : Nat) (b : Byte) : (q.takeLowByte n b).1.holdLimit = q.holdLimit := by
  unfold takeLowByte; split <;> simp

@[simp] theorem judgeHeld_holdLimit (q : PortCtl) : q.judgeHeld.1.holdLimit = q.holdLimit := by
  unfold judgeHeld; repeat' split
  all_goals simp

@[simp] theorem enterLocal_holdLimit (q : PortCtl) (d : Direction) : (q.enterLocal d).holdLimit = q.holdLimit := by
  unfold enterLocal; simp only; split <;> simp

@[simp] theorem enterForward_holdLimit (q : PortCtl) (g : SegIx) (w : Width) (a : Addr) (d : Direction) :
    (q.enterForward g w a d).holdLimit = q.holdLimit := by
  unfold enterForward; split <;> simp

@[simp] theorem rememberTenBit_holdLimit (q : PortCtl) (r : Query) (b : Binding) :
    (q.rememberTenBit r b).holdLimit = q.holdLimit := by
  unfold rememberTenBit; split <;> rfl

@[simp] theorem actOnLookup_holdLimit (q : PortCtl) (r : Query) (b : Option Binding) :
    (q.actOnLookup r b).holdLimit = q.holdLimit := by
  unfold actOnLookup; simp only; repeat' split
  all_goals simp

@[simp] theorem discardOutcome_holdLimit (q : PortCtl) (b : Option Binding) :
    (q.discardOutcome b).holdLimit = q.holdLimit := by
  unfold discardOutcome; simp only; split <;> simp

theorem takeLookupOutcome_holdLimit (q : PortCtl) (r : Query) (b : Option Binding) :
    (q.takeLookupOutcome r b).holdLimit = q.holdLimit := by
  unfold takeLookupOutcome; split <;> simp

theorem takePrefixOutcome_holdLimit (q : PortCtl) (a : Bool) : (q.takePrefixOutcome a).holdLimit = q.holdLimit := by
  unfold takePrefixOutcome; simp only; repeat' split
  all_goals simp

theorem takeGrant_holdLimit (q : PortCtl) (g : SegIx) (n : Nat) : (q.takeGrant g n).holdLimit = q.holdLimit := by
  unfold takeGrant; repeat' split
  all_goals simp

theorem takeRefusal_holdLimit (q : PortCtl) (g : SegIx) (n : Nat) : (q.takeRefusal g n).holdLimit = q.holdLimit := by
  unfold takeRefusal; split <;> simp

@[simp] theorem report_holdLimit (q : PortCtl) (a : Bool) : (q.report a).holdLimit = q.holdLimit := by
  unfold report; split <;> simp

theorem takeAddressAck_holdLimit (q : PortCtl) (g : SegIx) : (q.takeAddressAck g).holdLimit = q.holdLimit := by
  unfold takeAddressAck; simp only; repeat' split
  all_goals simp

theorem takeAddressNack_holdLimit (q : PortCtl) (g : SegIx) : (q.takeAddressNack g).holdLimit = q.holdLimit := by
  unfold takeAddressNack; split <;> simp

@[simp] theorem absorb_holdLimit (q : PortCtl) : q.absorb.holdLimit = q.holdLimit := by simp [absorb]

theorem takeWriteResult_holdLimit (q : PortCtl) (g : SegIx) (a : Bool) :
    (q.takeWriteResult g a).holdLimit = q.holdLimit := by
  unfold takeWriteResult; repeat' split
  all_goals simp

@[simp] theorem shiftOut_holdLimit (q : PortCtl) (b : Byte) : (q.shiftOut b).holdLimit = q.holdLimit := by
  simp [shiftOut]

theorem takeReadResult_holdLimit (q : PortCtl) (g : SegIx) (b : Byte) :
    (q.takeReadResult g b).holdLimit = q.holdLimit := by
  unfold takeReadResult; repeat' split
  all_goals simp

theorem takeEnding_holdLimit (q : PortCtl) (g : SegIx) : (q.takeEnding g).holdLimit = q.holdLimit := by
  unfold takeEnding endHoldOwnAnswer; simp only; repeat' split
  all_goals simp

theorem takeCommandByte_holdLimit (q : PortCtl) (b : Byte) : (q.takeCommandByte b).holdLimit = q.holdLimit := by
  unfold takeCommandByte; repeat' split
  all_goals simp

theorem takeResponseByte_holdLimit (q : PortCtl) (l : List Byte) : (q.takeResponseByte l).holdLimit = q.holdLimit := by
  unfold takeResponseByte; split <;> simp

theorem takeWriteByte_holdLimit (q : PortCtl) (n : Nat) (b : Byte) : (q.takeWriteByte n b).holdLimit = q.holdLimit := by
  unfold takeWriteByte takeDeclaredLength; repeat' split
  all_goals simp

theorem takeReadClock_holdLimit (q : PortCtl) (n : Nat) : (q.takeReadClock n).holdLimit = q.holdLimit := by
  unfold takeReadClock; repeat' split
  all_goals simp

theorem takeHostAck_holdLimit (q : PortCtl) (a : Bool) : (q.takeHostAck a).holdLimit = q.holdLimit := by
  unfold takeHostAck; simp only; repeat' split
  all_goals simp

theorem takeAbsorbByte_holdLimit (q : PortCtl) (d : Direction) : (q.takeAbsorbByte d).holdLimit = q.holdLimit := by
  unfold takeAbsorbByte; repeat' split
  all_goals simp

theorem takeEndingByte_holdLimit (q : PortCtl) : q.takeEndingByte.holdLimit = q.holdLimit := by
  unfold takeEndingByte; split <;> simp

theorem takeHoldExpiry_holdLimit (q : PortCtl) : q.takeHoldExpiry.holdLimit = q.holdLimit := by
  simp [takeHoldExpiry]

end PortCtl

end Sys2Proof.Machine
end

