-- ==== Sys2Proof/Laws/Frames.lean ====
section
/-! SUPPORT. A frame that passes the interpreter's checks carries no field out of its range; taking a frame, its completion,
the steps of RESTART and a period of the clock keep every soundness condition. -/

namespace Sys2Proof.Machine

/-- A selected timeout is not 0 (R188). -/
theorem selected_timeout {sel timeout : Byte} {n : Nat} {t : Option Byte}
    (h : selected sel n (timeoutOf timeout) = .ok t) : t ≠ some 0#8 := by
  unfold selected timeoutOf present? orBadValue at h
  rintro rfl
  split at h
  · split at h
    · rename_i a ha
      split at ha
      · cases ha
      · simp only [Except.map, Except.ok.injEq, Option.some.injEq] at h
        cases ha
        simp_all
    · cases h
  · cases h

/-- The fields that a SEGMENT_CONFIG frame selects hold no timeout of 0 (R188). -/
theorem configFields_ok {sel rate mode free timeout retry : Byte} {c : ConfigChange}
    (h : configFields sel rate mode free timeout retry = .ok c) : c.timeout ≠ some 0#8 := by
  unfold configFields at h
  simp only [bind, Except.bind] at h
  cases h0 : selected sel 0 (rateOf rate) with
  | error e => simp [h0] at h
  | ok r =>
    cases h1 : selected sel 1 (modeOf mode) with
    | error e => simp [h0, h1] at h
    | ok m =>
      cases h2 : selected sel 2 (busFreeOf free) with
      | error e => simp [h0, h1, h2] at h
      | ok f =>
        cases h3 : selected sel 3 (timeoutOf timeout) with
        | error e => simp [h0, h1, h2, h3] at h
        | ok t =>
          cases h4 : selected sel 4 (retryLimitOf retry) with
          | error e => simp [h0, h1, h2, h3, h4] at h
          | ok n =>
            simp only [h0, h1, h2, h3, h4, pure, Except.pure, Except.ok.injEq] at h
            subst h
            exact selected_timeout h3

/-- A field judged and put into a command: what the command is (R179). -/
theorem field_map {α : Type} {f : α → Command} {x : Field α} {c : Command}
    (h : (do return f (← x) : Field Command) = .ok c) : ∃ a, c = f a := by
  cases x with
  | error e => cases h
  | ok a => exact ⟨a, by cases h; rfl⟩

/-- A SEGMENT_CONFIG frame that passes (R188). -/
theorem segmentConfig_ok {g sel rate mode free timeout retry : Byte} {c : Command}
    (h : (do
      let seg ← segmentField g
      return .segmentConfig seg (← configFields sel rate mode free timeout retry) : Field Command) = .ok c) :
    commandOk c := by
  simp only [bind, Except.bind] at h
  cases h0 : segmentField g with
  | error e => simp [h0] at h
  | ok seg =>
    cases h1 : configFields sel rate mode free timeout retry with
    | error e => simp [h0, h1] at h
    | ok x =>
      simp only [h0, h1, pure, Except.pure, Except.ok.injEq] at h
      subst h
      exact configFields_ok h1

/-- A PORT_CONFIG frame that passes (R190). -/
theorem portConfig_ok {port limit : Byte} {c : Command}
    (h : (do
      let p ← portField port
      if limit = 0#8 then .error .badValue else return .portConfig p limit : Field Command) = .ok c) : commandOk c := by
  simp only [bind, Except.bind] at h
  cases h0 : portField port with
  | error e => simp [h0] at h
  | ok p =>
    simp only [h0] at h
    split at h
    · cases h
    · simp only [pure, Except.pure, Except.ok.injEq] at h
      subst h
      assumption

/-- A STAGE frame that passes (R133). -/
theorem stage_ok {k : Byte} {image : List Byte} {c : Command}
    (h : (do
      let slot ← slotField k
      match Image.ofBytes image with
      | some i => return .stage slot i
      | none => .error .badFrame : Field Command) = .ok c) : commandOk c := by
  simp only [bind, Except.bind] at h
  split at h
  · cases h
  · split at h
    · cases h; trivial
    · cases h

/-- A SEGMENT_ACTION frame that passes (R189). -/
theorem segmentAction_ok {g a : Byte} {c : Command}
    (h : (do
      let seg ← segmentField g
      return .segmentAction seg (← actionField a) : Field Command) = .ok c) : commandOk c := by
  simp only [bind, Except.bind] at h
  split at h
  · cases h
  · split at h
    · cases h
    · cases h; trivial

/-- A PROBE frame that passes (R185). -/
theorem probeFields_ok {port width hi lo dir : Byte} {c : Command} (h : probeFields port width hi lo dir = .ok c) :
    commandOk c := by
  unfold probeFields at h
  simp only [bind, Except.bind] at h
  split at h
  · cases h
  · split at h
    · cases h
    · split at h
      · cases h
      · split at h
        · cases h
        · cases h; trivial

/-- A command of a frame that passes carries no hold limit and no timeout of 0 (R179). -/
theorem commandOf_ok {k : Code} {payload : List Byte} {c : Command} (h : commandOf k payload = .ok c) : commandOk c := by
  cases k
  case stage =>
    rcases payload with _ | ⟨k, l⟩
    · cases h
    · exact stage_ok h
  case probe =>
    rcases payload with _ | ⟨x1, _ | ⟨x2, _ | ⟨x3, _ | ⟨x4, _ | ⟨x5, _ | ⟨x6, l⟩⟩⟩⟩⟩⟩
    case cons.cons.cons.cons.cons.nil => exact probeFields_ok h
    all_goals cases h
  case segmentConfig =>
    rcases payload with _ | ⟨x1, _ | ⟨x2, _ | ⟨x3, _ | ⟨x4, _ | ⟨x5, _ | ⟨x6, _ | ⟨x7, _ | ⟨x8, l⟩⟩⟩⟩⟩⟩⟩⟩
    case cons.cons.cons.cons.cons.cons.cons.nil => exact segmentConfig_ok h
    all_goals cases h
  all_goals
    rcases payload with _ | ⟨x1, _ | ⟨x2, _ | ⟨x3, l⟩⟩⟩
  case segmentAction.cons.cons.nil => exact segmentAction_ok h
  case portConfig.cons.cons.nil => exact portConfig_ok h
  all_goals first
    | cases h; done
    | (cases h; trivial)
    | (obtain ⟨a, rfl⟩ := field_map h; trivial)

theorem judgeFrame_ok {f : Frame} {c : Command} (h : judgeFrame f = .ok c) : commandOk c := by
  unfold judgeFrame at h
  split at h
  · cases h
  · split at h
    · cases h
    · split at h
      · cases h
      · split at h
        · exact commandOf_ok h
        · cases h

/-- The two waits and the reports of completion take no part in soundness. -/
theorem keeps_waits (s : State) (p : Port) (f : PortCtl → PortCtl)
    (hf : ∀ q, ∃ a b c d e, f q = { q with ownWait := a, restartWait := b, ownDone := c, restartDone := d, handedOver := e }) :
    Keeps s (s.onPort p f) := by
  obtain ⟨a, b, c, d, e, h⟩ := hf (s.port p)
  refine keeps_setPort s p (fun k => ?_) ?_
  · rw [h]; exact PortCtl.ok_waits k _ _ _ _ _
  · rw [h]

/-- A frame taken by the interpreter (R177). -/
theorem keeps_takeFrame (s : State) (p : Port) (f : Frame) : Keeps s (s.takeFrame p f) := by
  have k0 : Keeps s (s.onPort p fun q => { q with handedOver := none }) :=
    keeps_waits s p _ fun q => ⟨_, _, _, _, none, rfl⟩
  unfold State.takeFrame
  simp only
  split
  · exact k0.trans (keeps_writeResponse _ p (fun _ => by simp [resultOk]))
  · rename_i c hc
    have k1 : Keeps s ((s.onPort p fun q => { q with handedOver := none }).setInterp p
        { (s.onPort p fun q => { q with handedOver := none }).interpOf p with
          execution := some { frame := f, progress := .passed c } }) := by
      refine k0.trans (keeps_setInterp _ p (fun k => k.buffers p) (fun _ e he => ?_))
      cases he
      exact judgeFrame_ok hc
    split
    · exact k1.trans (keeps_waits _ _ _ fun q => ⟨_, true, _, false, _, rfl⟩)
    all_goals exact k1

/-- The next step of a RESTART (R192). -/
theorem keeps_restartStep (s : State) (p : Port) (straps : BitVec 2) : Keeps s (s.restartStep p straps) := by
  refine State.restartStep_induct (P := fun t => Keeps s t) ?_ ?_ ?_ ?_ ?_ ?_ (Keeps.refl s)
  · intro t n g a h
    refine h.trans (keeps_setInterp t p (fun k => k.buffers p) (fun k e c => ?_))
    simp only [Option.map_eq_some_iff] at c
    obtain ⟨f, _, rfl⟩ := c
    trivial
  · intro t h
    exact h.trans (keeps_setPort t _ PortCtl.takeCancellation_ok (PortCtl.takeCancellation_holdLimit _))
  · intro t g h
    exact h.trans (keeps_onSegment t g Segment.takeRestart_ok (by rw [Segment.takeRestart_config]))
  · exact fun t h => h.trans (keeps_restartTable t straps)
  · exact fun t h => h.trans (keeps_emptyNotices t)
  · intro t g a h
    refine h.trans (((keeps_setInterp t _ (fun _ => ⟨_, _, rfl, by simp⟩) (fun k e c => ?_)).trans
      (keeps_writeResponse _ p (fun _ => by simp [resultOk]))).trans
      (keeps_waits _ _ _ fun q => ⟨_, _, _, true, _, rfl⟩))
    exact k.executions _ e c

/-- The completion of the port's own execution taken (R177). -/
theorem PortCtl.takeOwnDone_ok {q : PortCtl} (h : PortOk q) : PortOk q.takeOwnDone.1 := by
  unfold PortCtl.takeOwnDone; split
  · exact PortCtl.judgeHeld_ok (PortCtl.ok_waits h _ _ _ _ _)
  · exact h

/-- The completion of the other port's RESTART taken (R194). -/
theorem PortCtl.takeRestartDone_ok {q : PortCtl} (h : PortOk q) : PortOk q.takeRestartDone.1 := by
  unfold PortCtl.takeRestartDone; split
  · exact PortCtl.judgeHeld_ok (PortCtl.ok_waits h _ _ _ _ _)
  · exact h

/-- One oscillator period (log 3). -/
theorem keeps_tick (s : State) : Keeps s s.tick where
  notices := fun h => noticesOk_congr h rfl rfl rfl
  segments := fun h g => by
    have : s.tick.seg g = (s.seg g).sampleLines (s.now + 1) (Config.dsclPulledLow (s.now + 1) g.val)
        (Config.dsdaPulledLow (s.now + 1) g.val) := by simp [State.tick, State.seg, Vector.get_eq_getElem]
    rw [this]; exact ⟨Segment.sampleLines_ok (h g).1 _ _ _, Segment.timed_timerOk _ _⟩
  ports := fun h => portsOk_congr h rfl
  table := fun h => tableOk_congr h rfl rfl
  settings := fun h => settingsOk_congr h rfl (fun _ => rfl) (fun g => by
    simp [State.tick, State.seg, Vector.get_eq_getElem, Segment.sampleLines_config])

end Sys2Proof.Machine
end

