-- ==== Sys2Proof/Laws/Judged.lean ====
section
/-! SUPPORT. What the judgement of a frame is, command by command; and the equations between updates that the statements
need. -/

namespace Sys2Proof.Machine

/-! ### Updates written twice, and updates that change nothing -/

theorem State.setPort_setPort (s : State) (p : Port) (a b : PortCtl) : (s.setPort p a).setPort p b = s.setPort p b := by
  simp [State.setPort]

theorem State.setPort_self (s : State) (p : Port) : s.setPort p (s.port p) = s := by simp [State.setPort, State.port]

theorem State.onPort_self (s : State) (p : Port) (f : PortCtl → PortCtl) (h : f (s.port p) = s.port p) :
    s.onPort p f = s := by rw [State.onPort, h, State.setPort_self]

theorem State.setSeg_self (s : State) (g : SegIx) : s.setSeg g (s.seg g) = s := by
  simp [State.setSeg, State.seg, Vector.get_eq_getElem]

theorem State.setSlot_self (s : State) (k : SlotIx) : s.setSlot k (s.slot k) = s := by
  simp [State.setSlot, State.slot, Vector.get_eq_getElem]

theorem State.setSeg_setPort (s : State) (p : Port) (q : PortCtl) (g : SegIx) (x : Segment) :
    (s.setPort p q).setSeg g x = (s.setSeg g x).setPort p q := rfl

theorem State.setSlot_setPort (s : State) (p : Port) (q : PortCtl) (k : SlotIx) (x : Slot) :
    (s.setPort p q).setSlot k x = (s.setSlot k x).setPort p q := rfl

theorem State.reloadIdle_eq (s : State) :
    s.reloadIdle = { s with changeSet := match s.changeSet with
      | .empty => .empty
      | .opened o _ => .opened o s.idleDeadline } := by
  unfold State.reloadIdle
  cases h : s.changeSet with
  | empty => simp [← h]
  | opened o d => rfl

/-! ### The first message of a segment -/

theorem PortCtl.takeFrom_none {g : SegIx} {l : List (SegIx × PortMsg)} (h : ∀ e ∈ l, e.1 ≠ g) :
    PortCtl.takeFrom g l = none := by
  induction l with
  | nil => rfl
  | cons x xs ih =>
    obtain ⟨a, b⟩ := x
    have := h (a, b) (by simp)
    simp at this
    simp [PortCtl.takeFrom, this, ih (fun e he => h e (by simp [he]))]

theorem PortCtl.takeFrom_first {g : SegIx} {m : PortMsg} {before after : List (SegIx × PortMsg)}
    (h : ∀ e ∈ before, e.1 ≠ g) : PortCtl.takeFrom g (before ++ (g, m) :: after) = some (m, before ++ after) := by
  induction before with
  | nil => simp [PortCtl.takeFrom]
  | cons x xs ih =>
    obtain ⟨a, b⟩ := x
    have := h (a, b) (by simp)
    simp at this
    simp [PortCtl.takeFrom, this, ih (fun e he => h e (by simp [he]))]

/-! ### Items of responses (R157, R186, R203) -/

theorem unitsRoundedUp_second (t : Nat) : unitsRoundedUp t ticksPerSecond = (t + 7999999) / 8000000 := by
  unfold unitsRoundedUp ticksPerSecond
  rw [show t + 8000000 - 1 = t + 7999999 by omega]

theorem unitsRoundedUp_100ms (t : Nat) : unitsRoundedUp t ticksPer100Ms = (t + 799999) / 800000 := by
  unfold unitsRoundedUp ticksPer100Ms
  rw [show t + 800000 - 1 = t + 799999 by omega]

theorem memberByte_eq (n : Note) : memberByte n = n.members.setWidth 8 := by
  apply BitVec.eq_of_getLsbD_eq
  intro i hi
  simp [memberByte, BitVec.getLsbD_extractLsb', BitVec.getLsbD_setWidth]

theorem presenceByte_bit (s : State) (k : Kind) : (presenceByte s.notices).getLsbD k.number.val = (s.note k).present := by
  have h : ∀ b0 b1 b2 b3 b4 b5 b6 b7 : Bool, ∀ i : Fin 8,
      ((List.finRange 8).foldl (fun (b : Byte) j =>
        if [b0, b1, b2, b3, b4, b5, b6, b7].getD j.val false then b ||| BitVec.twoPow 8 j.val else b) 0#8).getLsbD i.val =
        [b0, b1, b2, b3, b4, b5, b6, b7].getD i.val false := by decide
  have f : ∀ l : List (Fin 8), ∀ b : Byte,
      l.foldl (fun b j => if (s.notices.get j).present then b ||| BitVec.twoPow 8 j.val else b) b =
      l.foldl (fun b j => if [(s.notices.get 0).present, (s.notices.get 1).present, (s.notices.get 2).present,
        (s.notices.get 3).present, (s.notices.get 4).present, (s.notices.get 5).present, (s.notices.get 6).present,
        (s.notices.get 7).present].getD j.val false then b ||| BitVec.twoPow 8 j.val else b) b := by
    intro l
    induction l with
    | nil => intro b; rfl
    | cons j js ih =>
      intro b
      rw [List.foldl_cons, List.foldl_cons, ih]
      congr 1
      fin_cases j <;> rfl
  rw [presenceByte, f, h]
  cases k <;> rfl

/-! ### Images (10.2) -/

theorem twoBytes_append (a b : Byte) : twoBytes (a ++ b) = [a, b] := by
  have h1 : (a ++ b).extractLsb' 8 8 = a := by
    apply BitVec.eq_of_getLsbD_eq
    intro i hi
    rw [BitVec.getLsbD_extractLsb', BitVec.getLsbD_append, if_neg (by omega), Nat.add_sub_cancel_left]
    simp [hi]
  have h2 : (a ++ b).extractLsb' 0 8 = b := by
    apply BitVec.eq_of_getLsbD_eq
    intro i hi
    rw [BitVec.getLsbD_extractLsb', BitVec.getLsbD_append, Nat.zero_add, if_pos hi]
    simp [hi]
  simp only [twoBytes, h1, h2]

theorem halves_byte (b : Byte) : b.extractLsb' 4 4 ++ b.extractLsb' 0 4 = b := by revert b; decide

theorem fields_byte (b : Byte) : b.extractLsb' 6 2 ++ b.extractLsb' 4 2 ++ b.extractLsb' 3 1 ++ b.extractLsb' 0 3 = b := by
  revert b; decide

/-- The twelve bytes of an image cut into fields and joined again are the same bytes (R209). -/
theorem Image.toBytes_ofBytes {bytes : List Byte} {i : Image} (h : Image.ofBytes bytes = some i) : i.toBytes = bytes := by
  unfold Image.ofBytes at h
  split at h
  · cases h
    simp only [Image.toBytes, twoBytes_append, halves_byte, fields_byte, List.cons_append, List.nil_append]
  · cases h

/-! ### Frames, command by command (10.3) -/

theorem slotField_byteOf (k : SlotIx) : slotField (byteOf k.val) = .ok k := by revert k; decide

theorem slotField_high {b : Byte} (h : 64 ≤ b.toNat) : slotField b = .error .badSlot := by
  unfold slotField; rw [dif_neg (by omega)]

theorem segmentField_byteOf (g : SegIx) : segmentField (byteOf g.val) = .ok g := by revert g; decide

theorem segmentField_high {b : Byte} (h : 8 ≤ b.toNat) : segmentField b = .error .badValue := by
  unfold segmentField; rw [dif_neg (by omega)]

theorem Image.fits_iff (x : BitVec 16) (w : Width) :
    Image.fits x w = true ↔ x.toNat ≤ (match w with
      | .w7 => 0x7F
      | .w10 => 0x3FF) := by
  have h : ∀ n, n ≤ 16 → (x &&& ~~~(BitVec.ofNat 16 (2 ^ n - 1)) = 0#16 ↔ x.toNat < 2 ^ n) := by
    intro n hn
    constructor
    · intro h
      apply Nat.lt_pow_two_of_testBit
      intro i hi
      by_cases h16 : i < 16
      · have e := congrArg (BitVec.getLsbD · i) h
        simp only [BitVec.getLsbD_and, BitVec.getLsbD_not, BitVec.getLsbD_ofNat, h16, decide_true, Bool.true_and,
          Nat.testBit_two_pow_sub_one, Nat.not_lt.2 hi, decide_false, Bool.not_false, Bool.and_true] at e
        rw [Nat.zero_testBit] at e; exact e
      · exact Nat.testBit_lt_two_pow (lt_of_lt_of_le x.isLt (Nat.pow_le_pow_right (by decide) (by omega)))
    · intro h
      apply BitVec.eq_of_getLsbD_eq
      intro i hi
      by_cases hn : i < n
      · simp [BitVec.getLsbD_ofNat, hi, hn, Nat.testBit_two_pow_sub_one]
      · have e : x.getLsbD i = false :=
          Nat.testBit_lt_two_pow (lt_of_lt_of_le h (Nat.pow_le_pow_right (by decide) (by omega)))
        simp only [BitVec.getLsbD_and, e, Bool.false_and, BitVec.getLsbD_zero]
  cases w
  · have := h 7 (by decide)
    simp only [Image.fits, beq_iff_eq]
    rw [show ((widthMask .w7).setWidth 16) = BitVec.ofNat 16 (2 ^ 7 - 1) from rfl, this]; omega
  · have := h 10 (by decide)
    simp only [Image.fits, beq_iff_eq]
    rw [show ((widthMask .w10).setWidth 16) = BitVec.ofNat 16 (2 ^ 10 - 1) from rfl, this]; omega

theorem judgeFrame_stage (k : Byte) (image : List Byte) (h : image.length = 12) :
    judgeFrame { bytes := 0x01#8 :: k :: image, overflow := false } = (do
      let slot ← slotField k
      match Image.ofBytes image with
      | some i => return .stage slot i
      | none => .error .badFrame) := by
  simp only [judgeFrame, List.length_cons, h]; rfl

theorem judgeFrame_unstage (k : Byte) :
    judgeFrame { bytes := [0x02#8, k], overflow := false } = (do return .unstage (← slotField k)) := rfl

theorem judgeFrame_mark (k gen : Byte) :
    judgeFrame { bytes := [0x03#8, k, gen], overflow := false } = (do return .mark (← slotField k) gen) := rfl

theorem judgeFrame_unmark (k gen : Byte) :
    judgeFrame { bytes := [0x04#8, k, gen], overflow := false } = (do return .unmark (← slotField k) gen) := rfl

theorem judgeFrame_renew (k gen : Byte) :
    judgeFrame { bytes := [0x08#8, k, gen], overflow := false } = (do return .renew (← slotField k) gen) := rfl

theorem judgeFrame_revive (k gen : Byte) :
    judgeFrame { bytes := [0x09#8, k, gen], overflow := false } = (do return .revive (← slotField k) gen) := rfl

theorem judgeFrame_readRecord (k : Byte) :
    judgeFrame { bytes := [0x10#8, k], overflow := false } = (do return .readRecord (← slotField k)) := rfl

theorem judgeFrame_probe (port width hi lo dir : Byte) :
    judgeFrame { bytes := [0x11#8, port, width, hi, lo, dir], overflow := false } = probeFields port width hi lo dir := rfl

theorem judgeFrame_readSegment (g : Byte) :
    judgeFrame { bytes := [0x13#8, g], overflow := false } = (do return .readSegment (← segmentField g)) := rfl

theorem judgeFrame_segmentConfig (g sel rate mode free timeout retry : Byte) :
    judgeFrame { bytes := [0x20#8, g, sel, rate, mode, free, timeout, retry], overflow := false } = (do
      let seg ← segmentField g
      return .segmentConfig seg (← configFields sel rate mode free timeout retry)) := rfl

theorem judgeFrame_segmentAction (g a : Byte) :
    judgeFrame { bytes := [0x21#8, g, a], overflow := false } = (do
      let seg ← segmentField g
      return .segmentAction seg (← actionField a)) := rfl

theorem judgeFrame_portConfig (port limit : Byte) :
    judgeFrame { bytes := [0x22#8, port, limit], overflow := false } = (do
      let p ← portField port
      if limit = 0#8 then .error .badValue else return .portConfig p limit) := rfl

theorem judgeFrame_noCode {code : Byte} (payload : List Byte) (h : codeOf code = none) :
    judgeFrame { bytes := code :: payload, overflow := false } = .error .unknown := by
  simp [judgeFrame, h]

end Sys2Proof.Machine
end

