-- ==== Sys2Proof/Laws/Links.lean ====
section
/-! SUPPORT. What the counts of bindings and the standings at the segments become when a port or a segment takes one message:
the small lemmas of claims, BindingOk, stands and givesUp. -/

namespace Sys2Proof.Machine

/-! ### Claims (R19, R22, R23) -/

@[simp] theorem TableMsg.unbinds_unbind (k : SlotIx) (gen : BitVec 8) : (TableMsg.unbind k gen).unbinds = some (k, gen) := rfl
@[simp] theorem TableMsg.unbinds_lookup (a : Query) : (TableMsg.lookup a).unbinds = none := rfl
@[simp] theorem TableMsg.unbinds_prefixTest (h : BitVec 2) : (TableMsg.prefixTest h).unbinds = none := rfl
@[simp] theorem TableMsg.unbinds_acceptance (k : SlotIx) (gen : BitVec 8) : (TableMsg.acceptance k gen).unbinds = none := rfl
@[simp] theorem TableMsg.unbinds_refusal (k : SlotIx) (gen : BitVec 8) : (TableMsg.refusal k gen).unbinds = none := rfl
@[simp] theorem TableReply.binds_some (a : Query) (v : Verdict) (n : Option (SlotIx × BitVec 8)) (b : Binding) :
    (TableReply.lookup a v n (some b)).binds = some (b.slot, b.gen) := rfl
@[simp] theorem TableReply.binds_none (a : Query) (v : Verdict) (n : Option (SlotIx × BitVec 8)) :
    (TableReply.lookup a v n none).binds = none := rfl
@[simp] theorem TableReply.binds_prefixTest (accepted : Bool) : (TableReply.prefixTest accepted).binds = none := rfl

namespace PortCtl

/-- Only the binding and the two channels of the table manager are counted. -/
theorem claims_congr {q r : PortCtl} (hb : r.bound = q.bound) (ht : r.toTable = q.toTable) (hf : r.fromTable = q.fromTable) :
    r.claims = q.claims := by simp [claims, hb, ht, hf]

/-- A message that unbinds nothing is not counted. -/
theorem claims_sendTable (q : PortCtl) {m : TableMsg} (h : m.unbinds = none) : (q.sendTable m).claims = q.claims := by
  simp [claims, sendTable, h]

/-- Giving up a binding leaves it counted until its unbind is taken (R23). -/
theorem claims_giveUpBinding (q : PortCtl) : q.giveUpBinding.claims.Perm q.claims := by
  unfold giveUpBinding
  cases hb : q.bound with
  | none => simp [claims, hb]
  | some b =>
    simp [claims, hb, sendTable, List.perm_middle]

/-- An outcome acted on hands its binding to a context that has none (R50). -/
theorem claims_recorded {q : PortCtl} {a : Query} {v : Verdict} {n : Option (SlotIx × BitVec 8)} {b : Binding}
    {rest : List TableReply} (hb : q.bound = none) (hf : q.fromTable = .lookup a v n (some b) :: rest) :
    ({ q with bound := some b, fromTable := rest } : PortCtl).claims.Perm q.claims := by
  simpa [claims, hb, hf] using List.perm_middle.symm

/-- An outcome no longer awaited leaves its binding counted until the unbind is taken (R50; log 29). -/
theorem claims_discarded {q : PortCtl} {a : Query} {v : Verdict} {n : Option (SlotIx × BitVec 8)} {b : Option Binding}
    {rest : List TableReply} (hf : q.fromTable = .lookup a v n b :: rest) :
    (({ q with fromTable := rest } : PortCtl).discardOutcome b).claims.Perm q.claims := by
  cases b with
  | none => simp [claims, discardOutcome, hf, List.filterMap_cons]
  | some b =>
    simp only [claims, discardOutcome, hf, TableReply.binds_some, TableMsg.unbinds_unbind, List.filterMap_cons,
      List.append_assoc, List.cons_append]
    refine (List.Perm.append_left _ ?_)
    exact List.perm_middle.symm

/-- An unbind taken at the table manager is no longer counted (R23). -/
theorem claims_unbind {q : PortCtl} {k : SlotIx} {gen : BitVec 8} {rest : List TableMsg} (h : q.toTable = .unbind k gen :: rest) :
    q.claims.Perm ((k, gen) :: ({ q with toTable := rest } : PortCtl).claims) := by
  simp only [claims, h, TableMsg.unbinds_unbind, List.filterMap_cons, List.append_assoc, List.cons_append]
  exact List.perm_middle

/-- A bind is counted from the lookup's event on (R22). -/
theorem claims_bind (q : PortCtl) (a : Query) (v : Verdict) (n : Option (SlotIx × BitVec 8)) (b : Binding) :
    ({ q with fromTable := q.fromTable ++ [.lookup a v n (some b)] } : PortCtl).claims.Perm ((b.slot, b.gen) :: q.claims) := by
  simpa [claims] using List.perm_append_singleton (b.slot, b.gen) q.claims

end PortCtl

/-! ### Bindings in a sound state (R19, R22, R50) -/

namespace BindingOk

/-- Only the binding, the two channels of the table manager and the outcomes awaited matter. -/
theorem congr_fields {q r : PortCtl} (h : BindingOk q) (hb : r.bound = q.bound) (ht : r.toTable = q.toTable)
    (hf : r.fromTable = q.fromTable) (hs : r.stale = q.stale) (ha : r.awaiting = q.awaiting) : BindingOk r :=
  { single := by rw [PortCtl.claims_congr hb ht hf]; exact h.single
    answers := by rw [ht, hf, hs, ha]; exact h.answers
    settled := by rw [hb, ht]; exact h.settled
    order := by rw [ht]; exact h.order }

/-- Where a lookup is the port's first message and no outcome is under way, the context counts on no slot: the bind that
follows is its only one (R22; log 29). -/
theorem unclaimed {q : PortCtl} (h : BindingOk q) {a : Query} {rest : List TableMsg} (ht : q.toTable = .lookup a :: rest)
    (hf : q.fromTable = []) : q.claims = [] := by
  have hb : q.bound = none := by
    cases hb : q.bound with
    | none => rfl
    | some b => have := h.settled (by simp [hb]) (.lookup a) (by simp [ht]); simp [TableMsg.isLookup] at this
  have hr : rest.filterMap TableMsg.unbinds = [] :=
    List.filterMap_eq_nil_iff.2 (h.order [] a rest (by simp [ht]))
  rw [PortCtl.claims, hb, ht, hf, List.filterMap_cons, TableMsg.unbinds_lookup, hr]; rfl

/-- Giving up a binding keeps the port's bindings sound: a bound context has no lookup under way (R49). -/
theorem giveUpBinding {q : PortCtl} (h : BindingOk q) : BindingOk q.giveUpBinding := by
  cases hb : q.bound with
  | none =>
    have e : q.giveUpBinding = { q with tenBit := none } := by simp [PortCtl.giveUpBinding, hb]
    rw [e]; exact h.congr_fields rfl rfl rfl rfl rfl
  | some b =>
    have e : q.giveUpBinding = { q with bound := none, tenBit := none, toTable := q.toTable ++ [.unbind b.slot b.gen] } := by
      simp [PortCtl.giveUpBinding, hb, PortCtl.sendTable]
    have ns := h.settled (by simp [hb])
    refine { single := ?_, answers := ?_, settled := ?_, order := ?_ }
    · rw [(PortCtl.claims_giveUpBinding q).length_eq]; exact h.single
    · rw [e]; simpa [List.countP_append, TableMsg.isAnswered] using h.answers
    · rw [e]; simp
    · intro before a after ha
      have : TableMsg.lookup a ∈ q.toTable ++ [.unbind b.slot b.gen] := by
        have := congrArg PortCtl.toTable e; simp only at this; rw [← this, ha]; simp
      simp at this
      exact absurd (ns _ this) (by simp [TableMsg.isLookup])

/-- A lookup presented by an unbound context that awaits nothing keeps its bindings sound (R49, R50). -/
theorem presentLookup {q : PortCtl} (h : BindingOk q) (hb : q.bound = none) (ha : q.awaiting = false) (a : Query) :
    BindingOk (q.presentLookup a) := by
  have e : q.presentLookup a = { q with toTable := q.toTable ++ [.lookup a], awaiting := true } := rfl
  rw [e]
  refine { single := ?_, answers := ?_, settled := ?_, order := ?_ }
  · simpa [PortCtl.claims, List.filterMap_cons] using h.single
  · have := h.answers; simp [List.countP_append, TableMsg.isAnswered, ha] at this ⊢; omega
  · simp [hb]
  · intro before c after hc m hm
    rcases List.append_eq_append_iff.1 hc with ⟨l, e1, e2⟩ | ⟨l, e1, e2⟩
    · cases l with
      | nil => simp at e2; rw [e2.2] at hm; simp at hm
      | cons x l => simp at e2
    · cases l with
      | nil => simp at e2; rw [e2.2] at hm; simp at hm
      | cons x l =>
        simp at e2
        obtain ⟨rfl, e3⟩ := e2
        rw [e3] at hm
        simp at hm
        rcases hm with hm | rfl
        · exact h.order before c l e1 m hm
        · rfl

end BindingOk

/-! ### Standings at the segments (R96, R100, R103) -/

/-- A port stands with the segments in one way only. -/
theorem State.stands_unique {s : State} {p : Port} {v w : Standing} (hv : s.stands p v) (hw : s.stands p w) : v = w := by
  have one : ∀ {x : Segment} {g h : SegIx}, (s.seg g).standings p = 1 → (∀ k, k ≠ h → (s.seg k).standings p = 0) → g = h := by
    intro _ g h e z
    by_cases c : g = h
    · exact c
    · have := z g c; omega
  have both : ∀ {g : SegIx}, (s.seg g).owner = some p → p ∈ (s.seg g).queue → (s.seg g).standings p ≠ 1 := by
    intro g ho hq; have := List.count_pos_iff.2 hq; simp [Segment.standings, ho]; omega
  cases v with
  | away =>
    cases w with
    | away => rfl
    | owner g => have := hv g; have := hw.2.1; omega
    | entry g => have := hv g; have := hw.2.1; omega
  | owner g =>
    cases w with
    | away => have := hw g; have := hv.2.1; omega
    | owner k => rw [one (x := s.seg g) hv.2.1 hw.2.2]
    | entry k => have := one (x := s.seg g) hv.2.1 hw.2.2; subst this; exact absurd hv.2.1 (both hv.1 hw.1)
  | entry g =>
    cases w with
    | away => have := hw g; have := hv.2.1; omega
    | owner k => have := one (x := s.seg g) hv.2.1 hw.2.2; subst this; exact absurd hv.2.1 (both hw.1 hv.1)
    | entry k => rw [one (x := s.seg g) hv.2.1 hw.2.2]

/-- Messages that give up a standing may be followed by messages that give up none. -/
theorem givesUp_append {w : Standing} {l m : List (SegIx × SegMsg)} (hl : givesUp w l) (hm : givesUp .away m) :
    givesUp w (l ++ m) := by
  induction l generalizing w with
  | nil => cases w <;> simp [givesUp] at hl ⊢; exact hm
  | cons x l ih =>
    obtain ⟨g, y⟩ := x
    cases w <;> cases y <;> simp only [List.cons_append, givesUp] at hl ⊢ <;> first
      | exact ih hl
      | exact ⟨hl.1, ih hl.2⟩

/-- An owner's asks and then its release give up the ownership, and nothing when it has ended already (R103, R107). -/
theorem givesUp_release {w : Standing} {g : SegIx} {l : List (SegIx × SegMsg)} (hl : ∀ m ∈ l, m.2.ask?.isSome = true)
    (hw : w = .away ∨ w = .owner g) : givesUp w (l ++ [(g, .release)]) := by
  induction l with
  | nil => rcases hw with rfl | rfl <;> simp [givesUp]
  | cons x l ih =>
    obtain ⟨h, y⟩ := x
    have hy := hl (h, y) (by simp)
    have ih' := ih fun m hm => hl m (by simp [hm])
    cases y <;> simp [SegMsg.ask?] at hy
    rcases hw with rfl | rfl <;> simpa [givesUp] using ih'

/-- A request and the withdrawal that follows it give up no standing but their own (R103). -/
theorem givesUp_withdrawn (g : SegIx) (n : Nat) : givesUp .away [(g, .request n), (g, .withdrawal)] := by simp [givesUp]

end Sys2Proof.Machine
end

