-- ==== Sys2Proof/Tests/Slice0.lean ====
section
/-! SUPPORT. Tests of the model on small states: the smoke tests of WellFormed, values the spec works out, and for each
statement with hypotheses a state that meets them, clause by clause. -/

namespace Sys2Proof.Tests

open Sys2Proof.Machine

/-! ### Well-formed commands -/

theorem test_address_byte_with_a_prefix_is_ill_formed :
    (Instr.addressByte .u0 0x78#7 .write).wellFormed = false ∧ (Instr.addressByte .u0 0x7B#7 .read).wellFormed = false ∧
      (Instr.addressByte .u0 0x77#7 .read).wellFormed = true ∧ (Instr.addressByte .u1 0x7C#7 .write).wellFormed = true := by
  decide

theorem test_address_end_with_four_acknowledges_is_ill_formed :
    (Instr.addressEnd 0 4).wellFormed = false ∧ (Instr.addressEnd 7 3).wellFormed = true := by decide

theorem test_no_word_spells_a_command : decodeTableWord 8 0xFF = none ∧ State.reset.withFetchWord 8 0xFF = State.reset :=
  ⟨rfl, rfl⟩

/-! ### Records and images (10.2, chapter 1's checks) -/

/-- The image of the example route of slot 22: 7-bit matches 0x3A to SEGMENT S5. -/
def imageBytes : List Byte :=
  [0x77#8, 0x00#8, 0x3A#8, 0x00#8, 0x7F#8, 0x00#8, 0x52#8, 0x53#8, 0x04#8, 0x7A#8, 0x02#8, 0x58#8]

/-- The image that twelve bytes give. -/
def imageOf (bytes : List Byte) : Image := (Image.ofBytes bytes).getD Image.zero

/-- The record of the example image. -/
def exampleRecord : Record := Record.ofImage (imageOf imageBytes)

theorem test_example_image_is_valid : (imageOf imageBytes).firstFailure = none := by decide

theorem test_example_record_fields :
    exampleRecord =
      { width := .w7, key := 0x3A#10, mask := 0x7F#10, ports := { u0 := false, u1 := true },
        target := .segment 5 .w7 0x52#10, access := .readWrite, limit := some 4#8, counted := true, threshold := some 3#4,
        lifetime := some 600#16 } := by decide

/-- The first failing check of twelve bytes that form an image. -/
def failureOf (bytes : List Byte) : Option Byte := (imageOf bytes).firstFailure

theorem test_judged_variants_of_the_example_image :
    failureOf (imageBytes.set 0 0x78#8) = some 3#8 ∧ failureOf (imageBytes.set 9 0x5A#8) = some 7#8 ∧
      failureOf (imageBytes.set 9 0xBA#8) = some 3#8 ∧
      failureOf ((((imageBytes.set 9 0xBA#8).set 0 0x70#8).set 5 0x00#8).set 7 0x00#8 |>.set 6 0x00#8) = some 8#8 ∧
      failureOf (List.replicate 12 0#8) = some 1#8 := by decide

theorem test_management_image :
    Record.ofImage (imageOf [0x70#8, 0x00#8, 0x2E#8, 0x00#8, 0x7F#8, 0x00#8, 0x00#8, 0x00#8, 0x00#8, 0xB3#8, 0x00#8, 0x00#8]) =
      managementRecord 2#2 := by decide

/-- A record with the match and target of a row of R32's table. -/
def matchRecord (w : Width) (key mask : Addr) (tw : Width) (base : Addr) : Record :=
  { managementRecord 0#2 with width := w, key := key, mask := mask, target := .segment 0 tw base }

/-- The translated address of such a record. -/
def translated (w : Width) (key mask : Addr) (tw : Width) (base a : Addr) : Addr :=
  (matchRecord w key mask tw base).translate tw base a

theorem test_translated_addresses_of_the_table :
    translated .w7 0x48#10 0x78#10 .w7 0x10#10 0x4D#10 = 0x15#10 ∧
      translated .w10 0x1A0#10 0x3F0#10 .w7 0x20#10 0x1A5#10 = 0x25#10 ∧
      translated .w7 0x50#10 0x7F#10 .w10 0x2D3#10 0x50#10 = 0x2D3#10 ∧
      translated .w7 0x30#10 0x7C#10 .w10 0x3B0#10 0x32#10 = 0x3B2#10 ∧
      translated .w10 0x000#10 0x000#10 .w10 0x155#10 0x2F1#10 = 0x2F1#10 := by decide

/-! ### Frames (10.3) -/

theorem test_frames_of_the_renew_session :
    judgeFrame { bytes := [0x08#8, 0x16#8, 0x09#8], overflow := false } = .ok (.renew 22 9#8) ∧
      judgeFrame { bytes := [0x08#8, 0x16#8], overflow := false } = .error .badFrame ∧
      judgeFrame { bytes := [0x08#8, 0x48#8, 0x09#8], overflow := false } = .error .badSlot ∧
      judgeFrame { bytes := [0x00#8], overflow := false } = .error .unknown ∧
      judgeFrame { bytes := List.replicate 16 0x05#8, overflow := true } = .error .badFrame ∧
      judgeFrame { bytes := [0x11#8, 0x00#8, 0x07#8, 0x00#8, 0x80#8, 0x00#8], overflow := false } = .error .badValue := by
  decide

theorem test_renew_response : responseBytes .ok [0x02#8, 0x58#8] = [0x00#8, 0x02#8, 0x02#8, 0x58#8] := by decide

/-! ### Address bytes on a segment (5.5) -/

theorem test_address_bytes_sent :
    Segment.addressDrives .w7 0x52#10 .write = [.byte 0xA4#8] ∧ Segment.addressDrives .w7 0x52#10 .read = [.byte 0xA5#8] ∧
      Segment.addressDrives .w10 0x2D3#10 .write = [.byte 0xF4#8, .byte 0xD3#8] ∧
      Segment.addressDrives .w10 0x2D3#10 .read = [.byte 0xF4#8, .byte 0xD3#8, .restart, .byte 0xF5#8] := by decide

/-! ### Sound contexts, one for each phase -/

/-- A binding to SEGMENT S5, as the example route gives it. -/
def forwardBinding : Binding :=
  { slot := 22, gen := 9#8,
    snap := { dest := .segment 5 .w7 0x52#10, access := .readWrite, limit := some 4#8, counted := true } }

/-- A binding to the management route. -/
def localBinding : Binding :=
  { slot := 0, gen := 0#8, snap := { dest := .localPart, access := .readWrite, limit := none, counted := false } }

/-- A sound context in each phase. -/
def ctx : Phase → PortCtl
  | .idle => PortCtl.reset
  | .unaddressed => { PortCtl.reset with phase := .unaddressed }
  | .address => { PortCtl.reset with phase := .address }
  | .tenLow => { PortCtl.reset with phase := .tenLow, high := 2#2 }
  | .waitGrant =>
    { PortCtl.reset with phase := .waitGrant, direction := some .write, bound := some forwardBinding, link := .queued 5,
                         hold := some 80000, requests := 1 }
  | .proxy =>
    { PortCtl.reset with phase := .proxy, direction := some .read, bound := some forwardBinding, link := .owned 5,
                         hold := some 80000 }
  | .write =>
    { PortCtl.reset with phase := .write, direction := some .write, bound := some forwardBinding, link := .owned 5 }
  | .read =>
    { PortCtl.reset with phase := .read, direction := some .read, bound := some forwardBinding, link := .owned 5, count := 1 }
  | .ending =>
    { PortCtl.reset with phase := .ending, direction := some .read, bound := some forwardBinding, link := .owned 5, count := 1 }
  | .command =>
    { PortCtl.reset with phase := .command, direction := some .write, bound := some localBinding, frame := [0x05#8] }
  | .response => { PortCtl.reset with phase := .response, direction := some .read, bound := some localBinding }
  | .absorb => { PortCtl.reset with phase := .absorb }

theorem test_each_phase_has_a_sound_context (ph : Phase) : PortOk (ctx ph) ∧ (ctx ph).phase = ph := by
  cases ph <;> refine ⟨?_, rfl⟩ <;> constructor <;>
    simp [ctx, PortCtl.reset, Phase.isBound, Phase.ownsSegment, Phase.receivesAddress]

/-- The reset state with one port controller replaced. -/
def withPort (p : Port) (q : PortCtl) : State := State.reset.setPort p q

theorem port_withPort (p : Port) (q : PortCtl) : (withPort p q).port p = q := by simp [withPort]

/-- A port that holds SCL for an address byte whose outcome is awaited, with an outcome under way. -/
def awaitingCtx (r : TableReply) : PortCtl :=
  { PortCtl.reset with phase := .address, hold := some 80000, awaiting := true, fromTable := [r] }

theorem test_awaiting_contexts_are_sound (r : TableReply) (m : Option TenBit) (l : Link)
    (h : m = none) (hl : l = .none ∨ l = .owned 5) : PortOk { awaitingCtx r with tenBit := m, link := l } := by
  subst h
  rcases hl with rfl | rfl <;> constructor <;>
    simp [awaitingCtx, PortCtl.reset, Phase.isBound, Phase.ownsSegment, Phase.receivesAddress]

/-- A context in ADDRESS that carries a ten-bit memory with its binding, and a segment link. -/
def memoryCtx (access : Access) (l : Link) : PortCtl :=
  { PortCtl.reset with
    phase := .address, link := l, tenBit := some { slot := 3, gen := 1#8, addr := 0x2A5#10 },
    bound := some { slot := 3, gen := 1#8,
                    snap := { dest := .segment 6 .w10 0x2A5#10, access := access, limit := none, counted := false } } }

theorem test_contexts_with_a_memory_are_sound (access : Access) (l : Link) (h : l = .none ∨ l = .owned 6) :
    PortOk (memoryCtx access l) := by
  rcases h with rfl | rfl <;> constructor <;>
    simp [memoryCtx, PortCtl.reset, Phase.isBound, Phase.ownsSegment, Phase.receivesAddress]

/-- A context in COMMAND with `n` bytes collected. -/
def commandCtx (n : Nat) : PortCtl := { ctx .command with frame := List.replicate n 0x05#8 }

theorem test_command_contexts_are_sound (n : Nat) (h : n ≤ 16) : PortOk (commandCtx n) := by
  constructor <;> simp [commandCtx, ctx, PortCtl.reset, Phase.isBound, Phase.ownsSegment, Phase.receivesAddress, h]

/-! ### Sound segments, one for each state -/

/-- A sound segment in each state; OWNED by U1 with an ADDRESS that drives the lines. -/
def seg : SegState → Segment
  | .disabled => Segment.reset
  | .clearing => { Segment.reset with state := .clearing, attempts := 1, queue := [.u1] }
  | .idle => { Segment.reset with state := .idle }
  | .owned =>
    { Segment.reset with
      state := .owned, owner := some .u1, queue := [.u0], asks := [.address .w7 0x52#10 .write], stage := .driving,
      position := .boundary }
  | .releasing => { Segment.reset with state := .releasing, queue := [.u0], position := .boundary }
  | .closing =>
    { Segment.reset with
      state := .closing, asks := [.writeByte 0x10#8], stage := .driving, position := .boundary, pendingCancel := some .u1 }
  | .faulted => { Segment.reset with state := .faulted, attempts := 3 }

theorem test_timer_without_a_low_line (x : Segment) (scl : x.dsclLow = false) (sda : x.dsdaLow = false)
    (off : x.clockLow = none) : timerOk x := by
  unfold timerOk Segment.lineHeldLow
  simp [scl, sda, off]

theorem test_each_state_has_a_sound_segment (st : SegState) : SegmentOk (seg st) ∧ timerOk (seg st) ∧ (seg st).state = st := by
  cases st <;> refine ⟨?_, ?_, rfl⟩ <;> first
    | exact test_timer_without_a_low_line _ rfl rfl rfl
    | constructor <;> simp [seg, Segment.reset]

/-- A segment OWNED by U1 with the asks, stage and position given. -/
def ownedSeg (asks : List Primitive) (stage : Stage) (pos : Position) : Segment :=
  { Segment.reset with state := .owned, owner := some .u1, asks := asks, stage := stage, position := pos }

theorem test_owned_segments_are_sound (asks : List Primitive) (stage : Stage) (pos : Position)
    (h : asks = [] ↔ stage = .none)
    (hi : stage = .toRestart ∨ stage = .restarted → ∃ a, asks.head? = some (.address .w10 a .read) := by simp) :
    SegmentOk (ownedSeg asks stage pos) ∧ timerOk (ownedSeg asks stage pos) := by
  refine ⟨?_, ?_⟩
  · constructor <;> simp [ownedSeg, Segment.reset, h]
    simpa using hi
  · exact test_timer_without_a_low_line _ rfl rfl rfl

/-- A segment OWNED by U1 whose ADDRESS of a 10-bit read is at the stage given, DSDA held low from outside since moment 7. -/
def tenBitRead (stage : Stage) : Segment :=
  { ownedSeg [.address .w10 0x2D3#10 .read] stage .boundary with
    dsdaLow := true, clockLow := if stage = .toRestart then some 7 else none }

theorem test_ten_bit_reads_are_sound :
    ∀ st ∈ [Stage.driving, .toRestart, .restarted], SegmentOk (tenBitRead st) ∧ timerOk (tenBitRead st) := by
  intro st h
  simp only [List.mem_cons, List.not_mem_nil, or_false] at h
  rcases h with rfl | rfl | rfl <;> refine ⟨?_, by unfold timerOk; decide⟩ <;>
    constructor <;> simp [tenBitRead, ownedSeg, Segment.reset]

/-- A low DSDA does not run the clock-low timer while the bytes of a 10-bit read are sent; at the Restart inside it the
controller waits and the timer starts, and the expiry enters CLEARING (R105, R119, R120). -/
theorem test_a_low_data_line_at_the_inner_restart_runs_the_timer :
    let x := ((tenBitRead .driving).sampleLines 8 false true).comeToRestart.timed 9
    ((tenBitRead .driving).sampleLines 8 false true).clockLow = none ∧ x.stage = .toRestart ∧ x.clockLow = some 9 ∧
      x.driven = [.byte 0xF4#8, .byte 0xD3#8] ∧ (x.clockLowExpiry 5).seg.state = .clearing ∧
      (x.sampleLines 10 false false).clockLow = none ∧
      ((x.sampleLines 10 false false).tenBitRestart []).driven = [.restart] := by decide

/-- A segment whose DSCL is held low from outside, its clock-low timer running since moment 7. -/
def stretched (x : Segment) : Segment := { x with dsclLow := true, clockLow := some 7 }

theorem test_stretched_segments_are_sound :
    ∀ x ∈ [seg .clearing, seg .idle, seg .owned, seg .releasing, seg .closing, ownedSeg [] .none .none],
      SegmentOk x ∧ timerOk (stretched x) ∧ lineLow (stretched x) := by
  intro x h
  simp only [List.mem_cons, List.not_mem_nil, or_false] at h
  rcases h with rfl | rfl | rfl | rfl | rfl | rfl
  · exact ⟨(test_each_state_has_a_sound_segment .clearing).1, by unfold timerOk; decide, by decide⟩
  · exact ⟨(test_each_state_has_a_sound_segment .idle).1, by unfold timerOk; decide, by decide⟩
  · exact ⟨(test_each_state_has_a_sound_segment .owned).1, by unfold timerOk; decide, by decide⟩
  · exact ⟨(test_each_state_has_a_sound_segment .releasing).1, by unfold timerOk; decide, by decide⟩
  · exact ⟨(test_each_state_has_a_sound_segment .closing).1, by unfold timerOk; decide, by decide⟩
  · refine ⟨?_, by unfold timerOk; decide, by decide⟩
    constructor <;> simp [ownedSeg, Segment.reset]

/-- The reset state with segment `g` replaced. -/
def withSeg (g : SegIx) (x : Segment) : State := State.reset.setSeg g x

theorem seg_withSeg (g : SegIx) (x : Segment) : (withSeg g x).seg g = x := by simp [withSeg]

/-! ### Sound slots -/

/-- The example slot in service, unbound, with `n` strikes. -/
def liveSlot (st : SlotState) (n : Nat) : Slot :=
  { state := st, record := some exampleRecord, mark := false, gen := 9#8, inflight := 0, strikes := n, lease := .running 8000000 }

/-- The reset state with slot 22 replaced. -/
def withSlot (x : Slot) : State := State.reset.setSlot 22 x

theorem slot_withSlot (x : Slot) : (withSlot x).slot 22 = x := by simp [withSlot]

theorem exampleRecord_valid : exampleRecord.valid := Record.valid_ofImage (by decide)

theorem test_example_slots_are_sound : slotOk (liveSlot .live 2) ∧ slotOk (liveSlot .quarantined 3) := by
  have v := exampleRecord_valid
  have t : exampleRecord.threshold = some 3#4 := by decide
  have l : exampleRecord.lifetime = some 600#16 := by decide
  refine ⟨⟨_, v, rfl, ?_, ?_⟩, ⟨_, _, v, rfl, ?_, t, rfl⟩⟩
  · simp [leaseOk, liveSlot, l]
  · simp only [t]; decide
  · simp [leaseOk, liveSlot, l]

/-! ### States that meet the statements' hypotheses, clause by clause -/

theorem test_meets_StepTakesTheFrontCommandOrAPeriod : State.reset.pending = [] := rfl

/-- A port with a message of each kind first under way, of a kind that the event does not take. -/
def mistaken : PortCtl :=
  { PortCtl.reset with
    toTable := [.unbind 0 0#8], fromTable := [.prefixTest true], toSegments := [(3, .release)],
    fromSegments := [(5, .ackBitDone)] }

theorem test_meets_UntimelyCommandsChangeNothing :
    (let held := withPort .u0 (ctx .proxy); (held.port .u0).hold.isSome = true) ∧
    (let s := State.reset; (s.port .u0).hold = none ∧ (s.port .u0).phase = .idle ∧ (s.port .u0).shown = false) ∧
    (let q := (withPort .u0 mistaken).port .u0;
      (∀ y, q.toTable.head? ≠ some (.lookup y)) ∧ (∀ h, q.toTable.head? ≠ some (.prefixTest h)) ∧
      (∀ y v n b, q.fromTable.head? ≠ some (.lookup y v n b)) ∧ (∀ g n, q.toSegments.head? ≠ some (g, .request n)) ∧
      (∀ n rest, ¬ firstMessage q 5 (.grant n) rest) ∧ q.toTable ≠ [] ∧ q.fromTable ≠ [] ∧ q.handedOver = none ∧
      q.ownDone = false ∧ q.restartDone = false) ∧
    rowOf .u0 .atOnce .commit ≠ some (.stage .u0 .atOnce) ∧ ¬ serves (State.reset.slot 1) ∧ State.reset.changeSet = .empty := by
  refine ⟨rfl, ⟨rfl, rfl, rfl⟩, ⟨nofun, nofun, nofun, nofun, ?_, nofun, nofun, rfl, rfl, rfl⟩, nofun, ?_, rfl⟩
  · rintro n rest ⟨before, after, e, _, _⟩
    have m : ((5 : SegIx), PortMsg.grant n) ∈ [((5 : SegIx), PortMsg.ackBitDone)] := by
      rw [show [((5 : SegIx), PortMsg.ackBitDone)] = before ++ (5, .grant n) :: after from e]; simp
    simp at m
  · unfold serves; decide

theorem test_meets_UntimelyCommandsChangeNothing_at_a_segment :
    (SegmentOk (seg .idle) ∧ timerOk (seg .idle) ∧ (seg .idle).stage = .none ∧ ¬ drives (seg .idle) ∧
      (seg .idle).state ∉ [SegState.releasing, .closing] ∧ (seg .idle).state ≠ .clearing) ∧
    (let x := seg .owned; SegmentOk x ∧ timerOk x ∧ drives x ∧ x.asks ≠ [] ∧
      (∀ a rest, x.asks = a :: rest → endOf (.writeByteEnd 5 true) 5 a = none) ∧
      ∃ w a d rest, x.asks = .address w a d :: rest) ∧
    (let x := { ownedSeg [.address .w7 0x52#10 .write] .waiting .boundary with dsdaLow := true, clockLow := some 7 };
      timerOk x ∧ x.stage = .waiting ∧ x.dsdaLow = true) ∧
    (∀ st ∈ [Stage.driving, .toRestart, .restarted], let x := tenBitRead st;
      SegmentOk x ∧ timerOk x ∧ x.stage = st ∧ x.dsdaLow = true ∧ x.asks = [.address .w10 0x2D3#10 .read]) := by
  refine ⟨⟨(test_each_state_has_a_sound_segment .idle).1, (test_each_state_has_a_sound_segment .idle).2.1, ?_⟩,
    ⟨(test_each_state_has_a_sound_segment .owned).1, (test_each_state_has_a_sound_segment .owned).2.1, .inl (by decide), nofun, ?_,
      _, _, _, _, rfl⟩, ⟨by unfold timerOk; decide, rfl, rfl⟩,
    fun st h => ⟨(test_ten_bit_reads_are_sound st h).1, (test_ten_bit_reads_are_sound st h).2, rfl, rfl, rfl⟩⟩
  · unfold drives; decide
  · intro a rest e; cases e; rfl

theorem test_meets_UpstreamStartOpensAnAddressPhase :
    PortOk ((withPort .u1 (ctx .idle)).port .u1) ∧ ((withPort .u1 (ctx .idle)).port .u1).phase = .idle :=
  test_each_phase_has_a_sound_context .idle

theorem test_meets_UpstreamRestartKeepsWhatTheContextCarries :
    (∀ ph ∈ [Phase.write, .command], let s := withPort .u1 (ctx ph);
      (s.port .u1).phase ≠ .idle ∧ (s.port .u1).hold = none) ∧
      ((withPort .u1 (ctx .write)).port .u1).phase ≠ .command ∧ ((withPort .u1 (ctx .command)).port .u1).phase = .command := by
  decide

theorem test_meets_UpstreamStopEndsTheTransaction :
    ∀ ph ∈ [Phase.write, .read, .ending, .address, .tenLow, .command, .response, .unaddressed, .absorb, .idle],
      let s := withPort .u1 (ctx ph);
      PortOk (s.port .u1) ∧ (s.port .u1).hold = none ∧ (s.port .u1).phase = ph := by
  intro ph h
  refine ⟨(test_each_phase_has_a_sound_context ph).1, ?_, (test_each_phase_has_a_sound_context ph).2⟩
  revert ph; decide

theorem test_meets_AddressBytesArePresentedToTheTable :
    (∀ ph ∈ [Phase.address, .tenLow], let s := withPort .u0 (ctx ph);
      (s.port .u0).hold = none ∧ (s.port .u0).ownWait = false ∧ (s.port .u0).restartWait = false ∧ (s.port .u0).phase = ph) ∧
      isPrefixAddress 0x77#7 = false ∧ isPrefixAddress 0x7C#7 = false := by decide

theorem test_meets_PrefixReadContinuesTheMemoryOrIsRefused :
    (∀ e ∈ [(Access.readWrite, Link.owned 6), (.read, .none), (.write, .none), (.write, .owned 6)],
      let s := withPort .u0 (memoryCtx e.1 e.2);
      PortOk (s.port .u0) ∧ (s.port .u0).phase = .address ∧ (s.port .u0).hold = none ∧ (s.port .u0).ownWait = false ∧
      (s.port .u0).restartWait = false ∧ (s.port .u0).link = e.2 ∧
      ∃ m b, (s.port .u0).tenBit = some m ∧ m.addr.extractLsb' 8 2 = 2#2 ∧ (s.port .u0).bound = some b ∧
        b.snap.dest = .segment 6 .w10 0x2A5#10 ∧ b.snap.access = e.1) ∧
    (let s := withPort .u0 (ctx .address);
      PortOk (s.port .u0) ∧ (s.port .u0).phase = .address ∧ (s.port .u0).tenBit = none) ∧
    (let s := withPort .u0 (memoryCtx .read (.owned 6)); ∃ m, (s.port .u0).tenBit = some m ∧ m.addr.extractLsb' 8 2 ≠ 3#2) ∧
    ∃ t, (State.reset.port .u0).phase = .idle ∧ (State.reset.port .u0).hold = none ∧
      exec (.upstreamStart .u0) State.reset = .next t := by
  refine ⟨fun e h => ⟨test_contexts_with_a_memory_are_sound _ _ ?_, rfl, rfl, rfl, rfl, rfl, _, _, rfl, ?_, rfl, rfl, rfl⟩,
    ⟨(test_each_phase_has_a_sound_context .address).1, rfl, rfl⟩, ⟨_, rfl, by decide⟩, _, rfl, rfl, rfl⟩
  · revert e; decide
  · decide

/-- An execution of port `p` that has come to `progress`, put into a state. -/
def executing (s : State) (p : Port) (progress : Progress) : State :=
  s.setInterp p { s.interpOf p with execution := some { frame := { bytes := [0x05#8], overflow := false }, progress := progress } }

/-- A context in an address phase that keeps byte `b` while the interpreter wait is set. -/
def keepingCtx (ph : Phase) (b : Byte) (own restart ownDone restartDone : Bool) : PortCtl :=
  { ctx ph with
    ownWait := own, restartWait := restart, ownDone := ownDone, restartDone := restartDone, hold := some 80000, held := some b }

theorem test_contexts_that_keep_a_byte_are_sound (b : Byte) (o r od rd : Bool) :
    PortOk (keepingCtx .address b o r od rd) ∧ PortOk (keepingCtx .tenLow b o r od rd) := by
  constructor <;> constructor <;>
    simp [keepingCtx, ctx, PortCtl.reset, Phase.isBound, Phase.ownsSegment, Phase.receivesAddress]

/-- A state in which port U0 keeps byte `b` in phase `ph`, with the completions given under way. -/
def keeping (ph : Phase) (b : Byte) (own restart ownDone restartDone : Bool) : State :=
  withPort .u0 (keepingCtx ph b own restart ownDone restartDone)

theorem test_meets_InterpreterWaitHoldsTheAddressByte :
    (∀ ph ∈ [Phase.address, .tenLow], let s := withPort .u0 { ctx ph with ownWait := true };
      (s.port .u0).hold = none ∧ ((s.port .u0).ownWait || (s.port .u0).restartWait) = true ∧ (s.port .u0).phase = ph) ∧
    isPrefixAddress 0x3A#7 = false := by decide

theorem test_own_completion_with_a_byte_kept (ph : Phase) (b : Byte) (restart : Bool) :
    ∃ u, takesCompletion (keeping ph b true restart true false) .u0 (.executionComplete .u0 .u0) u ∧
      (u.port .u0).held = some b ∧ (u.port .u0).ownWait = false ∧ (u.port .u0).restartWait = restart ∧
      (u.port .u0).phase = (ctx ph).phase := by
  refine ⟨_, .inl ⟨rfl, fun e r h => ?_, rfl, rfl⟩, ?_⟩
  · exact absurd (show (none : Option Execution) = some e from h) nofun
  · simp [keeping, withPort, keepingCtx]

theorem test_own_reply_with_a_byte_kept (ph : Phase) (b : Byte) (r : Result) :
    ∃ u, takesCompletion (executing (keeping ph b true false false false) .u0 (.replying r)) .u0 (.executionComplete .u0 .u0) u ∧
      (u.port .u0).held = some b ∧ (u.port .u0).ownWait = false ∧ (u.port .u0).restartWait = false ∧
      (u.port .u0).phase = (ctx ph).phase := by
  refine ⟨_, .inr (.inl ⟨rfl, _, r, rfl, rfl, rfl⟩), ?_⟩
  simp [executing, keeping, withPort, keepingCtx]

theorem test_restart_completion_with_a_byte_kept (ph : Phase) (b : Byte) :
    ∃ u, takesCompletion (keeping ph b false true false true) .u0 (.executionComplete .u0 .u1) u ∧
      (u.port .u0).held = some b ∧ (u.port .u0).ownWait = false ∧ (u.port .u0).restartWait = false ∧
      (u.port .u0).phase = (ctx ph).phase := by
  refine ⟨_, .inr (.inr ⟨rfl, rfl, rfl⟩), ?_⟩
  simp [keeping, withPort, keepingCtx]

/-- A slot in service whose record is the example's with another target, access or limits. -/
def serving (st : SlotState) (r : Record) : State := withSlot { liveSlot st 0 with record := some r }

/-- The example lookup: U1 addresses 0x3A with direction write. -/
def exampleQuery : Query := { width := .w7, addr := 0x3A#10, dir := .write }

/-- The example lookup for reading. -/
def readQuery : Query := { width := .w7, addr := 0x3A#10, dir := .read }

theorem test_winner_of_the_example_lookup :
    lookupWinner (withSlot (liveSlot .live 0)).table .u1 exampleQuery = some 22 ∧
      lookupWinner State.reset.table .u1 exampleQuery = none := by decide

/-- The example slot with record `r` in state `st`, S5 in state `sg`, and a message of U1 to the table manager under way. -/
def routing (r : Record) (st : SlotState) (sg : SegState) (m : TableMsg) : State :=
  ((withSlot { liveSlot st 0 with record := some r }).setSeg 5 (seg sg)).setPort .u1 { ctx .address with toTable := [m] }

/-- The outcome of the example lookup there. -/
def outcomeOf (r : Record) (st : SlotState) (sg : SegState) (d : Direction) : Verdict × Option (SlotIx × Record) :=
  (routing r st sg (.unbind 0 0#8)).lookupResult .u1 { exampleQuery with dir := d }

/-- The example record turned to the management unit. -/
def localRecord : Record := { managementRecord 0#2 with key := 0x3A#10 }

theorem test_meets_LookupJudgementTakesTheFirstCondition :
    lookupWinner State.reset.table .u1 exampleQuery = none ∧
    (∀ st ∈ [SlotState.live, .quarantined],
      ∀ r ∈ [exampleRecord, { exampleRecord with target := .deny }, { exampleRecord with access := .read }, localRecord],
        lookupWinner (routing r st .idle (.unbind 0 0#8)).table .u1 exampleQuery = some 22 ∧
        ((routing r st .idle (.unbind 0 0#8)).slot 22).record = some r ∧
        ((routing r st .idle (.unbind 0 0#8)).slot 22).state = st) ∧
    (∀ st ∈ [SegState.disabled, .closing, .faulted], outcomeOf exampleRecord .live st .write = (.segmentDown, some (22, exampleRecord))) ∧
    (∀ st ∈ [SegState.clearing, .idle, .owned, .releasing],
      outcomeOf exampleRecord .live st .write = (.forward, some (22, exampleRecord))) ∧
    outcomeOf exampleRecord .quarantined .idle .write = (.quarantined, some (22, exampleRecord)) ∧
    (outcomeOf { exampleRecord with access := .read } .quarantined .idle .write).1 = .access ∧
    (outcomeOf { exampleRecord with access := .write } .live .idle .read).1 = .access ∧
    (outcomeOf { exampleRecord with target := .deny, access := .read } .live .idle .write).1 = .deny ∧
    outcomeOf localRecord .live .idle .write = (.localPart, some (22, localRecord)) := by decide

theorem managementRecord_valid (straps : BitVec 2) : (managementRecord straps).valid := by
  revert straps; unfold Record.valid; decide

/-- A table with the management route and the example slot is sound. -/
theorem test_example_tables_are_sound (st : SlotState) (n : Nat) (h : st = .live ∨ st = .quarantined)
    (ok : slotOk (liveSlot st n)) : TableOk (withSlot (liveSlot st n)) := by
  have reset : ∀ k, k ≠ 0 → State.reset.slot k = Slot.freeWith 0#8 := by decide
  have at22 := slot_withSlot (liveSlot st n)
  have at0 : (withSlot (liveSlot st n)).slot 0 = managementSlot 0#2 0#8 := rfl
  have other : ∀ k, k ≠ 22 → (withSlot (liveSlot st n)).slot k = State.reset.slot k := fun k hk => by
    simp [withSlot, State.slot_setSlot, hk]
  have serving : ∀ k, ((withSlot (liveSlot st n)).slot k).inService = true → k = 22 ∨ k = 0 := fun k hk => by
    by_contra c
    rw [other k fun e => c (.inl e), reset k fun e => c (.inr e)] at hk
    exact absurd hk (by decide)
  refine ⟨fun k => ?_, fun _ k => ?_, fun i j a b hij hi hj ha hb => ?_, fun p => ?_⟩
  · by_cases e : k = 22
    · rw [e, at22]; exact ok
    · rw [other k e]
      by_cases z : k = 0
      · subst z
        exact ⟨_, managementRecord_valid 0#2, rfl, rfl, rfl⟩
      · rw [reset k z]; rfl
  · by_cases e : k = 22
    · rw [e, at22]; rcases h with rfl | rfl <;> exact ⟨nofun, rfl⟩
    · rw [other k e]
      by_cases z : k = 0
      · subst z; decide
      · rw [reset k z]; decide
  · rcases serving i hi with rfl | rfl <;> rcases serving j hj with rfl | rfl
    · exact absurd rfl hij
    · rw [at22] at ha; rw [at0] at hb; cases ha; cases hb; decide
    · rw [at0] at ha; rw [at22] at hb; cases ha; cases hb; decide
    · exact absurd rfl hij
  · exact ⟨0, _, by rw [at0]; decide, by rw [at0]; rfl, by cases p <;> decide⟩

/-- The image of a wider route beside the example's: keys 0x38 to 0x3B to SEGMENT S1. -/
def wideBytes : List Byte :=
  [0x77#8, 0x00#8, 0x38#8, 0x00#8, 0x7C#8, 0x00#8, 0x10#8, 0x10#8, 0x00#8, 0x72#8, 0x00#8, 0x00#8]

/-- The record of that image. -/
def wideRecord : Record := Record.ofImage (imageOf wideBytes)

/-- The example slot QUARANTINED, with the wider route LIVE in slot 23. -/
def overlapping : State :=
  (withSlot (liveSlot .quarantined 3)).setSlot 23 { managementSlot 0#2 1#8 with record := some wideRecord }

theorem test_meets_LookupWinnerIsTheNarrowestCompetingRoute :
    TableOk overlapping ∧ overlapping.slot 22 = liveSlot .quarantined 3 ∧
      (overlapping.slot 23).record = some wideRecord ∧ (overlapping.slot 23).state = .live ∧
      (∀ r ∈ [exampleRecord, wideRecord], r.width = .w7 ∧ r.ports.get .u1 = true ∧ r.covers 0x3A#10 = true) ∧
      lookupWinner overlapping.table .u1 exampleQuery = some 22 ∧
      lookupWinner overlapping.table .u1 { exampleQuery with addr := 0x3B#10 } = some 23 := by
  have base := test_example_tables_are_sound .quarantined 3 (.inr rfl) test_example_slots_are_sound.2
  have at23 : overlapping.slot 23 = { managementSlot 0#2 1#8 with record := some wideRecord } := by simp [overlapping]
  have other : ∀ k, k ≠ 23 → overlapping.slot k = (withSlot (liveSlot .quarantined 3)).slot k := fun k hk => by
    simp [overlapping, State.slot_setSlot, hk]
  have serving : ∀ k, ((withSlot (liveSlot .quarantined 3)).slot k).inService = true → k = 22 ∨ k = 0 := by decide
  have rec22 : ((withSlot (liveSlot .quarantined 3)).slot 22).record = some exampleRecord := rfl
  have rec0 : ((withSlot (liveSlot .quarantined 3)).slot 0).record = some (managementRecord 0#2) := rfl
  have away : ∀ a, ∀ i, ((withSlot (liveSlot .quarantined 3)).slot i).inService = true →
      ((withSlot (liveSlot .quarantined 3)).slot i).record = some a →
      a.duplicates wideRecord = false ∧ wideRecord.duplicates a = false := fun a i hi ha => by
    rcases serving i hi with rfl | rfl
    · rw [rec22] at ha; cases ha; decide
    · rw [rec0] at ha; cases ha; decide
  refine ⟨⟨fun k => ?_, fun _ k => ?_, fun i j a b hij hi hj ha hb => ?_, fun p => ?_⟩, ?_, by rw [at23], by rw [at23]; rfl,
    by decide, by decide, by decide⟩
  · by_cases e : k = 23
    · rw [e, at23]
      exact ⟨wideRecord, Record.valid_ofImage (by decide), rfl, rfl, rfl⟩
    · rw [other k e]; exact base.slots k
  · by_cases e : k = 23
    · rw [e, at23]; exact ⟨nofun, rfl⟩
    · rw [other k e]; exact base.changeSet rfl k
  · by_cases e : i = 23 <;> by_cases f : j = 23
    · exact absurd (e.trans f.symm) hij
    · rw [e, at23] at ha; rw [other j f] at hj hb; cases ha; exact (away b j hj hb).2
    · rw [f, at23] at hb; rw [other i e] at hi ha; cases hb; exact (away a i hi ha).1
    · rw [other i e] at hi ha; rw [other j f] at hj hb; exact base.unique i j a b hij hi hj ha hb
  · obtain ⟨k, r, h1, h2, h3⟩ := base.managed p
    by_cases e : k = 23
    · subst e; exact absurd h1 (by decide)
    · exact ⟨k, r, by rw [other k e]; exact h1, by rw [other k e]; exact h2, h3⟩
  · rw [other 22 (by decide)]; exact slot_withSlot _

theorem test_meets_LookupJudgementTakesTheFirstCondition_in_a_sound_table :
    let s := withSlot (liveSlot .quarantined 3);
    TableOk s ∧ (s.slot 22).state = .quarantined ∧ lookupWinner s.table .u1 exampleQuery = some 22 :=
  ⟨test_example_tables_are_sound _ _ (.inr rfl) test_example_slots_are_sound.2, rfl, by decide⟩

/-- The image of a 10-bit match that a 7-bit client answers: row two of R32's table. -/
def narrowBytes : List Byte :=
  [0xA7#8, 0x01#8, 0xA0#8, 0x03#8, 0xF0#8, 0x00#8, 0x20#8, 0x00#8, 0x00#8, 0x73#8, 0x00#8, 0x00#8]

theorem test_meets_AddressesAreTranslatedAndNeverReserved :
    ((matchRecord .w10 0x1A0#10 0x3F0#10 .w7 0x20#10).mask.getLsbD 3 = false ∧
      (matchRecord .w7 0x30#10 0x7C#10 .w10 0x3B0#10).mask.getLsbD 2 = true ∧
      (matchRecord .w7 0x30#10 0x7C#10 .w10 0x3B0#10).width = .w7) ∧
    (exampleRecord.valid ∧ exampleRecord.width = .w7 ∧ exampleRecord.covers 0x3A#10 = true ∧
      exampleRecord.target = .segment 5 .w7 0x52#10) ∧
    (let r := Record.ofImage (imageOf narrowBytes);
      r.valid ∧ r.width = .w10 ∧ r.target = .segment 0 .w7 0x20#10 ∧ r.covers 0x1AF#10 = true) :=
  ⟨by decide, ⟨exampleRecord_valid, by decide, by decide, by decide⟩, Record.valid_ofImage (by decide), by decide, by decide,
   by decide⟩

theorem test_meets_LookupAnswersAndBinds :
    (∀ r st sg, ((routing r st sg (.lookup exampleQuery)).port .u1).toTable = [.lookup exampleQuery] ∧
      ((routing r st sg (.lookup exampleQuery)).port .u1).fromTable = []) ∧
    (State.reset.lookupResult .u1 exampleQuery).1 = .noMatch ∧
    ((withPort .u1 { ctx .address with toTable := [.lookup exampleQuery] }).port .u1).toTable = [.lookup exampleQuery] ∧
    (outcomeOf { exampleRecord with target := .deny } .live .idle .write).1 = .deny ∧
    (outcomeOf exampleRecord .live .owned .write) = (.forward, some (22, exampleRecord)) ∧
    exampleRecord.target = .segment 5 .w7 0x52#10 ∧
    outcomeOf localRecord .live .idle .read = (.localPart, some (22, localRecord)) ∧ localRecord.target = .localPart := by
  refine ⟨fun _ _ _ => ⟨rfl, rfl⟩, ?_⟩
  decide

theorem test_meets_PrefixTestAcceptsAMatchableHighPart :
    let r := Record.ofImage (imageOf narrowBytes);
    let s := routing r .quarantined .idle (.prefixTest 1#2);
    (s.port .u1).toTable = [.prefixTest 1#2] ∧ serves (s.slot 22) ∧ (s.slot 22).record = some r ∧ r.width = .w10 ∧
      r.ports.get .u1 = true ∧ r.covers 0x1A5#10 = true ∧ (0x1A5#10).extractLsb' 8 2 = 1#2 ∧
      s.prefixAccepted .u1 1#2 = true ∧ s.prefixAccepted .u1 2#2 = false :=
  ⟨rfl, .inr rfl, rfl, by decide, by decide, by decide, by decide, by decide, by decide⟩

theorem test_meets_OutcomesAnswerTheAddressPhase :
    (∀ r ∈ [TableReply.lookup exampleQuery .noMatch none none,
        .lookup exampleQuery .deny (some (22, 9#8)) none, .lookup exampleQuery .localPart (some (0, 0#8)) (some localBinding),
        .lookup readQuery .localPart (some (0, 0#8)) (some localBinding), .prefixTest true, .prefixTest false],
      let s := withPort .u1 (awaitingCtx r);
      PortOk (s.port .u1) ∧ (s.port .u1).awaiting = true ∧ (s.port .u1).stale = 0 ∧ (s.port .u1).fromTable = [r]) ∧
    localBinding.snap.dest = .localPart ∧
    (∀ r ∈ [TableReply.lookup exampleQuery .forward (some (22, 9#8)) (some forwardBinding), .prefixTest true],
      let s := withPort .u1 { ctx .absorb with stale := 1, fromTable := [r] };
      ((s.port .u1).stale ≠ 0 ∧ (s.port .u1).fromTable = [r])) := by
  refine ⟨fun r _ => ⟨test_awaiting_contexts_are_sound r _ _ rfl (.inl rfl), rfl, rfl, rfl⟩, rfl, by decide⟩

theorem test_meets_ForwardOutcomeKeepsOrRequestsTheSegment :
    ∀ l ∈ [Link.owned 5, .none],
      let s := withPort .u1 ({ awaitingCtx (.lookup exampleQuery .forward (some (22, 9#8)) (some forwardBinding)) with
        tenBit := none, link := l } : PortCtl);
      PortOk (s.port .u1) ∧ (s.port .u1).awaiting = true ∧ (s.port .u1).stale = 0 ∧
        (s.port .u1).fromTable = [.lookup exampleQuery .forward (some (22, 9#8)) (some forwardBinding)] ∧
        forwardBinding.snap.dest = .segment 5 .w7 0x52#10 ∧ (s.port .u1).link = l := by
  intro l h
  refine ⟨test_awaiting_contexts_are_sound _ _ _ rfl ?_, rfl, rfl, rfl, rfl, rfl⟩
  revert l; decide

theorem test_meets_UnbindLowersTheInFlightCount :
    let s := fun (x : Slot) (g : BitVec 8) => (withSlot x).setPort .u1 { ctx .idle with toTable := [.unbind 22 g] };
    (∀ x g, ((s x g).port .u1).toTable = [.unbind 22 g] ∧ (s x g).slot 22 = x) ∧
    (liveSlot .live 0).gen ≠ 8#8 ∧ (Slot.freeWith 9#8).state = .free ∧
    (∀ st ∈ [SlotState.live, .quarantined], ∀ n ∈ [1, 2], let x := { liveSlot st 0 with inflight := n, lease := .paused 1 };
      x.gen = 9#8 ∧ serves x ∧ x.record = some exampleRecord ∧ x.inflight = n) ∧
    (let x := { liveSlot .draining 0 with inflight := 1, lease := .paused 1 };
      x.gen = 9#8 ∧ x.inflight = 1 ∧ x.state = .draining) := by
  refine ⟨fun x g => ⟨rfl, slot_withSlot x⟩, by decide, rfl, ?_, by decide⟩
  unfold serves; decide

theorem test_meets_ReportsCountStrikesAndReloadLeases :
    (∀ m, ((routing exampleRecord .live .idle m).port .u1).toTable = [m]) ∧
    (∀ st n, (withSlot (liveSlot st n)).slot 22 = liveSlot st n) ∧
    (let x := liveSlot .live 2; let y := liveSlot .live 1;
      x.gen = 9#8 ∧ x.state = .live ∧ x.record = some exampleRecord ∧ exampleRecord.threshold = some 3#4 ∧
      x.strikes + 1 = (3#4).toNat ∧ y.strikes + 1 ≠ (3#4).toNat) ∧
    (liveSlot .quarantined 3).state = .quarantined ∧ (managementRecord 0#2).threshold = none ∧
    (managementSlot 0#2 0#8).state = .live ∧ (managementSlot 0#2 0#8).record = some (managementRecord 0#2) ∧
    (managementSlot 0#2 0#8).gen = 0#8 ∧ ¬ serves (Slot.freeWith 0#8) := by
  refine ⟨fun _ => rfl, fun _ _ => slot_withSlot _, ?_⟩
  unfold serves; decide

theorem test_meets_LeaseAndIdleExpiries :
    serves ((withSlot (liveSlot .quarantined 3)).slot 22) ∧
    ((withSlot (liveSlot .quarantined 3)).slot 22).lease = .running 8000000 ∧
    (∀ d ∈ [some 800000, none], ({ State.reset with changeSet := .opened .u0 d } : State).changeSet = .opened .u0 d) := by
  rw [slot_withSlot]
  exact ⟨.inr rfl, rfl, fun _ _ => rfl⟩

theorem test_meets_HoldExpiryAnswersAndAbsorbs :
    ((withPort .u0 (ctx .waitGrant)).port .u0).hold = some 80000 ∧ ((withPort .u0 (ctx .proxy)).port .u0).hold = some 80000 :=
  ⟨rfl, rfl⟩

theorem test_meets_CommandBytesAreCollected :
    (∀ n ∈ [0, 15, 16], PortOk ((withPort .u0 (commandCtx n)).port .u0) ∧
      ((withPort .u0 (commandCtx n)).port .u0).phase = .command ∧
      ((withPort .u0 (commandCtx n)).port .u0).frame.length = n) ∧
    (managementRecord 3#2).valid ∧ (managementRecord 3#2).target = .localPart := by
  refine ⟨fun n h => ⟨test_command_contexts_are_sound n ?_, rfl, ?_⟩, managementRecord_valid _, rfl⟩ <;> revert n <;> decide

theorem test_meets_BytesAnsweredWithoutASegment :
    (∀ ph ∈ [Phase.response, .absorb, .ending],
      PortOk ((withPort .u0 (ctx ph)).port .u0) ∧ ((withPort .u0 (ctx ph)).port .u0).phase = ph) ∧
    (let s := withPort .u0 { ctx .response with count := 1 }; (s.interpOf .u0).buffer[(s.port .u0).count]? = some 0x00#8) ∧
    (let s := withPort .u0 { ctx .response with count := 2 }; (s.interpOf .u0).buffer.length ≤ (s.port .u0).count) := by
  exact ⟨fun ph _ => test_each_phase_has_a_sound_context ph, rfl, by decide⟩

/-- A context in WRITE with a declared length and a data byte count. -/
def writingCtx (declared : Option Byte) (count : Nat) : PortCtl := { ctx .write with declared := declared, count := count }

theorem test_meets_WriteBytesAreForwardedWithinTheLimits :
    (∀ declared count, let q := (withPort .u1 (writingCtx declared count)).port .u1;
      q.phase = .write ∧ q.hold = none ∧ q.bound = some forwardBinding ∧ q.link = .owned 5 ∧ q.declared = declared) ∧
    forwardBinding.snap.counted = true ∧
    allowsBytes forwardBinding.snap.limit (4#8).toNat ∧ ¬ allowsBytes forwardBinding.snap.limit (5#8).toNat ∧
    (let q := writingCtx (some 3#8) 2;
      allowsBytes forwardBinding.snap.limit (q.count + 1) ∧ allowsBytes q.declared (q.count + 1)) ∧
    (let q := writingCtx (some 3#8) 3; ¬ allowsBytes q.declared (q.count + 1)) ∧
    (let q := writingCtx (some 9#8) 4; ¬ allowsBytes forwardBinding.snap.limit (q.count + 1)) := by
  refine ⟨fun _ _ => ⟨rfl, rfl, rfl, rfl, rfl⟩, rfl, ?_⟩
  simp [allowsBytes, forwardBinding, writingCtx]

/-- A context in READ with a fetched byte, shifted out or not, and a data byte count. -/
def readingCtx (fetched : Option Byte) (shown : Bool) (count : Nat) : PortCtl :=
  { ctx .read with fetched := fetched, shown := shown, count := count }

theorem test_meets_ReadBytesAreShiftedOutAndAcknowledged :
    (∀ fetched shown count, let q := (withPort .u1 (readingCtx fetched shown count)).port .u1;
      q.phase = .read ∧ q.hold = none ∧ q.bound = some forwardBinding ∧ q.link = .owned 5 ∧ q.fetched = fetched ∧
        q.shown = shown ∧ q.count = count) ∧
    allowsBytes forwardBinding.snap.limit (3 + 1) ∧ ¬ allowsBytes forwardBinding.snap.limit (4 + 1) := by
  refine ⟨fun _ _ _ => ⟨rfl, rfl, rfl, rfl, rfl, rfl, rfl⟩, ?_⟩
  simp [allowsBytes, forwardBinding]

/-- A context in phase `ph` that has a message of S5 under way, behind one of S3 and before another of S5. -/
def hearing (ph : Phase) (m : PortMsg) : PortCtl := { ctx ph with fromSegments := [(3, .grant 0), (5, m), (5, .lost)] }

theorem test_first_message_of_a_segment (ph : Phase) (m : PortMsg) :
    firstMessage ((withPort .u1 (hearing ph m)).port .u1) 5 m [(3, .grant 0), (5, .lost)] :=
  ⟨[(3, .grant 0)], [(5, .lost)], rfl, by decide, rfl⟩

theorem test_meets_GrantsAndRefusalsAreTaken (m : PortMsg) :
    (let q := (withPort .u1 (hearing .waitGrant m)).port .u1;
      q.phase = .waitGrant ∧ q.link = .queued 5 ∧ q.requests = 1 ∧ q.bound = some forwardBinding ∧ q.direction = some .write ∧
        forwardBinding.snap.dest = .segment 5 .w7 0x52#10) ∧
    (let q := (withPort .u1 (hearing .absorb m)).port .u1; q.phase ≠ .waitGrant ∧ q.link ≠ .queued 5 ∧ q.requests ≠ 1) :=
  ⟨⟨rfl, rfl, rfl, rfl, rfl, rfl⟩, nofun, nofun, nofun⟩

theorem test_meets_AddressResultsAreMirrored (m : PortMsg) :
    ∀ d, let q := (withPort .u1 { hearing .proxy m with direction := d }).port .u1;
      q.phase = .proxy ∧ q.link = .owned 5 ∧ q.bound = some forwardBinding ∧ q.direction = d :=
  fun _ => ⟨rfl, rfl, rfl, rfl⟩

theorem test_meets_DataResultsAreMirrored_and_EndingResultsEndTheOwnershipAndStrayResultsAreDiscarded (m : PortMsg) :
    (∀ ph ∈ [Phase.write, .read, .ending, .proxy], ((withPort .u1 (hearing ph m)).port .u1).link = .owned 5 ∧
      ((withPort .u1 (hearing ph m)).port .u1).phase = ph) ∧
    (∀ h, ((withPort .u1 { hearing .read m with hold := h }).port .u1).hold = h) ∧
    (let q := (withPort .u1 { hearing .address m with link := .owned 5 }).port .u1; q.phase = .address ∧ q.link = .owned 5) ∧
    (let q := (withPort .u1 { hearing .tenLow m with link := .owned 5 }).port .u1; q.phase = .tenLow ∧ q.link = .owned 5) :=
  ⟨by simp [hearing, ctx, withPort], fun _ => rfl, ⟨rfl, rfl⟩, rfl, rfl⟩

theorem test_meets_stray_results (m : PortMsg) :
    ((withPort .u1 (hearing .absorb m)).port .u1).link ≠ .owned 5 ∧
      ((withPort .u1 { hearing .write m with link := .owned 2 }).port .u1).link ≠ .owned 5 := ⟨nofun, by show Link.owned 2 ≠ .owned 5; decide⟩

/-! ### Segments -/

/-- U1 has a message to S5 under way, and S5 is `x`. -/
def sending (x : Segment) (m : SegMsg) : State := (withSeg 5 x).setPort .u1 { ctx .idle with toSegments := [(5, m)] }

theorem sending_fields (x : Segment) (m : SegMsg) :
    ((sending x m).port .u1).toSegments = [(5, m)] ∧ (sending x m).seg 5 = x := ⟨rfl, seg_withSeg 5 x⟩

theorem test_meets_SegmentRequestsAreGrantedQueuedOrRefused :
    ∀ st, (((sending (seg st) (.request 1)).port .u1).toSegments = [(5, .request 1)]) ∧
      timerOk ((sending (seg st) (.request 1)).seg 5) ∧ ((sending (seg st) (.request 1)).seg 5).state = st :=
  fun st => ⟨rfl, by rw [(sending_fields _ _).2]; exact (test_each_state_has_a_sound_segment st).2⟩

theorem test_meets_WithdrawalsReleasesAndAsksAreTaken :
    (let x := ownedSeg [] .none .none;
      (SegmentOk x ∧ timerOk x) ∧ x.owner = some .u1 ∧ Port.u1 ∉ x.queue ∧ ¬ drives x ∧
        releasedBy x (idleOrGranted x) (grantOnIdle x)) ∧
    (let x := ownedSeg [] .none .boundary;
      (SegmentOk x ∧ timerOk x) ∧ x.owner = some .u1 ∧ x.asks = [] ∧ ¬ drives x ∧
        releasedBy x { x with state := .releasing, owner := none } []) ∧
    (let x := ownedSeg [.readByte, .ackBit true] .driving .clientSending;
      (SegmentOk x ∧ timerOk x) ∧ x.owner = some .u1 ∧ x.asks ≠ [] ∧ drives x ∧
        releasedBy x { x with state := .releasing, owner := none, asks := [.readByte] } []) ∧
    (let x := seg .clearing; (SegmentOk x ∧ timerOk x) ∧ x.owner ≠ some .u1 ∧ Port.u1 ∈ x.queue) ∧
    (let x := seg .disabled; (SegmentOk x ∧ timerOk x) ∧ x.owner ≠ some .u1 ∧ Port.u1 ∉ x.queue) := by
  have sound := fun st => And.intro (test_each_state_has_a_sound_segment st).1 (test_each_state_has_a_sound_segment st).2.1
  refine ⟨⟨test_owned_segments_are_sound _ _ _ (by simp), ?_⟩, ⟨test_owned_segments_are_sound _ _ _ (by simp), ?_⟩,
    ⟨test_owned_segments_are_sound _ _ _ (by simp), ?_⟩, ⟨sound _, ?_⟩, ⟨sound _, ?_⟩⟩ <;>
    simp [ownedSeg, seg, Segment.reset, drives, releasedBy, idleOrGranted, grantOnIdle]

/-- A segment OWNED by U1 whose ADDRESS waits, DSDA as given. -/
def waitingSeg (pos : Position) (low : Bool) : Segment :=
  { ownedSeg [.address .w7 0x52#10 .write] .waiting pos with dsdaLow := low }

theorem test_meets_WaitingAddressMakesItsStart (pos : Position) (low : Bool) :
    let x := (withSeg 5 (waitingSeg pos low)).seg 5;
    x.stage = .waiting ∧ x.position = pos ∧ x.dsclLow = false ∧ x.dsdaLow = low := by
  rw [seg_withSeg]; exact ⟨rfl, rfl, rfl, rfl⟩

theorem test_meets_WaitingAddressMakesItsStart_inside_a_ten_bit_read (st : Stage) (low : Bool) :
    let x := (withSeg 5 { tenBitRead st with dsdaLow := low }).seg 5;
    x.stage = st ∧ x.asks = [.address .w10 0x2D3#10 .read] ∧ x.dsclLow = false ∧ x.dsdaLow = low ∧ x.state = .owned := by
  rw [seg_withSeg]; exact ⟨rfl, rfl, rfl, rfl, rfl⟩

theorem test_meets_PrimitivesEndWithTheirResults :
    (∀ e ∈ [(Instr.addressEnd 5 1, Primitive.address .w7 0x52#10 .read), (.addressEnd 5 0, .address .w7 0x52#10 .write),
        (.addressEnd 5 2, .address .w10 0x2D3#10 .read), (.addressEnd 5 3, .address .w10 0x2D3#10 .read),
        (.writeByteEnd 5 false, .writeByte 0x10#8), (.readByteEnd 5 0xAA#8, .readByte), (.ackBitEnd 5, .ackBit true),
        (.ackBitEnd 5, .ackBit false)],
      (endOf e.1 5 e.2).isSome = true ∧ ((withSeg 5 (ownedSeg [e.2] .driving .boundary)).seg 5).asks = [e.2]) ∧
    (let x := ownedSeg [.address .w7 0x52#10 .read] .waiting .ackOpen;
      x.stage = .waiting ∧ x.position ≠ .none ∧ x.dsclLow = false ∧ x.dsdaLow = false ∧ x.state = .owned ∧ x.owner = some .u1) ∧
    (∀ st ∈ [SegState.releasing, .closing],
      let x := { ownedSeg [.readByte] .driving .clientSending with state := st, owner := none }; x.asks = [.readByte] ∧ x.state = st) ∧
    (∀ st ∈ [Stage.driving, .toRestart, .restarted], let x := { tenBitRead st with dsdaLow := false };
      x.stage = st ∧ x.dsclLow = false ∧ x.dsdaLow = false ∧ x.state = .owned ∧ x.owner = some .u1 ∧
        ∀ n ∈ [2, 3], endsAfterRestart (.addressEnd 5 n) (.address .w10 0x2D3#10 .read)) := by
  simp [seg_withSeg, endOf, ownedSeg, tenBitRead, endsAfterRestart, Segment.addressLength, Segment.reset]

theorem test_meets_StopEndsReleasingAndClosing :
    ((withSeg 5 (seg .releasing)).seg 5).asks = [] ∧ ((withSeg 5 (seg .releasing)).seg 5).state = .releasing ∧
      (let x := { seg .closing with asks := [], stage := .none, pendingCancel := none }; x.asks = [] ∧ x.state = .closing) := by
  rw [seg_withSeg]; exact ⟨rfl, rfl, rfl, rfl⟩

/-- A segment in SHARED mode. -/
def shared (x : Segment) : Segment := { x with config := { x.config with mode := .shared } }

/-- A low line of a SHARED segment stands over a jump of the clock: the first sample with both lines high starts the bus-free
count, and a second one leaves it (R113). -/
theorem test_a_low_line_stands_until_the_next_sample :
    let x := (shared (ownedSeg [.address .w7 0x52#10 .read] .waiting .none)).sampleLines 8 true false
    x.freeSince = 8 ∧ (x.sampleLines 9000 false false).freeSince = 9000 ∧
      ((x.sampleLines 9000 false false).sampleLines 9001 false false).freeSince = 9000 := by decide

theorem test_meets_ArbitrationLossesAreTaken :
    (∀ n ∈ [2, 3], let x := { shared (ownedSeg [.address .w7 0x52#10 .read] .driving .boundary) with retries := n };
      x.config.mode = .shared ∧ x.state = .owned ∧ x.owner = some .u1 ∧ drives x ∧
        x.asks = [.address .w7 0x52#10 .read] ∧ (x.retries < x.config.retryLimit.toNat ↔ n = 2)) ∧
    (let x := shared (ownedSeg [.readByte] .driving .clientSending);
      x.config.mode = .shared ∧ x.state = .owned ∧ x.owner = some .u1 ∧ drives x ∧ x.asks = [.readByte]) ∧
    (shared (seg .releasing)).config.mode = .shared ∧ (shared (seg .releasing)).state = .releasing ∧
    (shared (seg .closing)).config.mode = .shared ∧ (shared (seg .closing)).state = .closing ∧
    (((withSeg 5 (seg .owned)).seg 5).config.mode = .sole ∧ timerOk ((withSeg 5 (seg .owned)).seg 5)) := by
  have timer := (test_each_state_has_a_sound_segment .owned).2.1
  simp [seg_withSeg, shared, ownedSeg, seg, Segment.reset, SegConfig.reset, drives, timerOk, Segment.lineHeldLow]

theorem test_meets_ClockLowExpiryActsByState :
    (∀ x, (stretched x).clockLow = some 7) ∧
    (let x := stretched (ownedSeg [.readByte] .driving .clientSending);
      x.state = .owned ∧ x.owner = some .u1 ∧ x.stage ≠ .none) ∧
    (let x := stretched (ownedSeg [] .none .none); x.state = .owned ∧ x.owner = some .u1 ∧ x.position = .none) ∧
    (let x := ownedSeg [] .none .boundary; timerOk x ∧ x.state = .owned ∧ x.position ≠ .none ∧ x.stage = .none) ∧
    (∀ n ∈ [2, 3], let x := stretched { seg .clearing with attempts := n }; x.state = .clearing ∧ (x.attempts < 3 ↔ n = 2)) ∧
    (∀ st, ((withSeg 5 (stretched (seg st))).seg 5).state = st) := by
  refine ⟨fun _ => rfl, ⟨rfl, rfl, nofun⟩, ⟨rfl, rfl, rfl⟩, ⟨test_timer_without_a_low_line _ rfl rfl rfl, rfl, nofun, rfl⟩, by decide, fun st => ?_⟩
  rw [seg_withSeg]; exact (test_each_state_has_a_sound_segment st).2.2

theorem test_meets_ClearCheckEndsOrRepeatsTheBusClear :
    ∀ n ∈ [1, 2, 3], let x := (withSeg 5 { seg .clearing with attempts := n }).seg 5; x.state = .clearing ∧ x.attempts = n := by
  intro n _; rw [seg_withSeg]; exact ⟨rfl, rfl⟩

theorem test_meets_SegmentActionsActByState :
    (∀ st, SegmentOk (seg st) ∧ timerOk (seg st) ∧ (seg st).state = st) ∧ (∀ x a, (executing (withSeg 5 x) .u0 (.passed (.segmentAction 5 a))).passedCommand .u0
      = some (.segmentAction 5 a) ∧ (executing (withSeg 5 x) .u0 (.passed (.segmentAction 5 a))).seg 5 = x) ∧
    drives (seg .owned) ∧ (SegmentOk (ownedSeg [] .none .boundary) ∧ timerOk (ownedSeg [] .none .boundary)) ∧
    ¬ drives (ownedSeg [] .none .boundary) ∧
    (SegmentOk (ownedSeg [.address .w7 0x52#10 .read] .waiting .none) ∧
      timerOk (ownedSeg [.address .w7 0x52#10 .read] .waiting .none)) ∧
    ¬ drives (ownedSeg [.address .w7 0x52#10 .read] .waiting .none) := by
  refine ⟨test_each_state_has_a_sound_segment, fun x a => ⟨rfl, seg_withSeg 5 x⟩, .inl (by decide),
    test_owned_segments_are_sound _ _ _ (by simp), ?_, test_owned_segments_are_sound _ _ _ (by simp), ?_⟩ <;>
    simp [drives, ownedSeg]

/-! ### The interpreter and the change set -/

/-- A frame of U0 handed over. -/
def handed (bytes : List Byte) (overflow : Bool) : State :=
  withPort .u0 { ctx .idle with ownWait := true, handedOver := some { bytes := bytes, overflow := overflow } }

theorem test_meets_HandedOverFramesAreJudged :
    (∀ bytes overflow, let s := handed bytes overflow;
      (s.port .u0).handedOver = some { bytes := bytes, overflow := overflow } ∧ (s.port .u0).toTable = [] ∧
        (s.interpOf .u0).execution = none) ∧
    codeOf 0x00#8 = none ∧ codeOf 0x08#8 = some (3, .renew) ∧ commandOf .renew [0x48#8, 0x09#8] = .error .badSlot ∧
    commandOf .renew [0x16#8, 0x09#8] = .ok (.renew 22 9#8) ∧ codeOf 0x30#8 = some (1, .restart) ∧
    commandOf .restart [] = .ok .restart := by
  exact ⟨fun _ _ => ⟨rfl, rfl, rfl⟩, by decide⟩

theorem test_meets_FrameFieldsAreReadAndJudged :
    64 ≤ (64#8).toNat ∧ (Image.ofBytes imageBytes).isSome = true ∧ imageBytes.length = 12 ∧ 8 ≤ (8#8).toNat ∧
      4 ≤ (4#8).toNat ∧ 2 ≤ (2#8).toNat ∧ 0x7F < (0x00#8 ++ 0x80#8).toNat ∧
      0x3FF < (0x04#8 ++ 0x00#8).toNat ∧ (0x03#8 ++ 0xFF#8).toNat ≤ 0x3FF ∧ (0x00#8 ++ 0x7F#8).toNat ≤ 0x7F ∧
      (0x1F#8).getLsbD 0 = true ∧ (0x1F#8).getLsbD 4 = true ∧ (0xE0#8).getLsbD 0 = false ∧ (0xE0#8).getLsbD 4 = false ∧
      3 ≤ (3#8).toNat ∧ 0#8 ∉ [4#8, 8#8, 16#8, 32#8] := by decide

theorem test_configurations_judged_at_their_boundaries :
    (∀ bytes ∈ [[0x20#8, 7#8, 0x01#8, 3#8, 0#8, 0#8, 0#8, 0#8], [0x20#8, 7#8, 0x02#8, 0#8, 2#8, 0#8, 0#8, 0#8],
        [0x20#8, 7#8, 0x04#8, 0#8, 0#8, 64#8, 0#8, 0#8], [0x20#8, 7#8, 0x08#8, 0#8, 0#8, 0#8, 0#8, 0#8],
        [0x20#8, 7#8, 0x10#8, 0#8, 0#8, 0#8, 0#8, 8#8]], judgeFrame { bytes := bytes, overflow := false } = .error .badValue) ∧
    judgeFrame { bytes := [0x20#8, 7#8, 0x1F#8, 2#8, 1#8, 32#8, 255#8, 7#8], overflow := false } =
      .ok (.segmentConfig 7 { rate := some .fastPlus, mode := some .shared, busFree := some .p32, timeout := some 255#8,
                              retryLimit := some 7#3 }) := by decide

theorem test_meets_RecordImagesAreReadAndJudged :
    (imageOf imageBytes).firstFailure = none ∧
      ∀ e ∈ [(0x67#8, 1), (0x78#8, 3)], (imageOf (imageBytes.set 0 e.1)).firstFailure = some (BitVec.ofNat 8 e.2) := by decide

theorem test_meets_AnswersReplaceTheResponseBuffer :
    ((executing State.reset .u0 (.passed .commit)).interpOf .u0).execution.isSome = true := rfl

/-- The change set in each condition a command of U0 meets, with slot 22 as given. -/
def editing (c : ChangeSet) (x : Slot) (cmd : Command) : State :=
  executing { withSlot x with changeSet := c } .u0 (.passed cmd)

theorem editing_fields (c : ChangeSet) (x : Slot) (cmd : Command) :
    (editing c x cmd).passedCommand .u0 = some cmd ∧ (editing c x cmd).slot 22 = x ∧ (editing c x cmd).changeSet = c :=
  ⟨rfl, slot_withSlot x, rfl⟩

theorem test_meets_StageAndUnstageWriteTheSlot :
    mayCommand (editing .empty (Slot.freeWith 8#8) .commit) .u0 ∧
    mayCommand (editing (.opened .u0 none) (liveSlot .staged 0) .commit) .u0 ∧
    (editing (.opened .u1 none) (Slot.freeWith 8#8) .commit).changeSet = .opened .u1 none ∧ Port.u1 ≠ .u0 ∧
    (Slot.freeWith 8#8).state = .free ∧ (liveSlot .live 0).state ≠ .free ∧ (liveSlot .live 0).state ≠ .staged ∧
    (liveSlot .staged 0).state = .staged ∧ (imageOf imageBytes).firstFailure = none ∧
    (imageOf (imageBytes.set 9 0x5A#8)).firstFailure = some 7#8 :=
  ⟨.inl rfl, .inr ⟨_, rfl⟩, rfl, nofun, rfl, nofun, nofun, rfl, by decide, by decide⟩

theorem test_meets_MarkAndUnmarkChangeTheRetirementMark :
    (∀ cmd ∈ [Command.mark 22 9#8, .unmark 22 9#8], ∀ c ∈ [ChangeSet.empty, .opened .u0 (some 5)],
      let s := editing c (liveSlot .quarantined 3) cmd;
      s.passedCommand .u0 = some cmd ∧ mayCommand s .u0 ∧ serves (s.slot 22) ∧ (s.slot 22).gen = 9#8) ∧
    ¬ serves (liveSlot .draining 0) ∧ (liveSlot .live 0).gen ≠ 8#8 := by
  refine ⟨fun cmd _ c h => ⟨rfl, ?_, ?_, ?_⟩, by unfold serves; decide, by decide⟩
  · simp at h; rcases h with rfl | rfl
    · exact .inl rfl
    · exact .inr ⟨_, rfl⟩
  · rw [(editing_fields _ _ _).2.1]; exact .inr rfl
  · rw [(editing_fields _ _ _).2.1]; rfl

theorem test_meets_CommitValidatesAndApplies :
    (∀ c ∈ [ChangeSet.empty, .opened .u0 none, .opened .u1 none], (editing c (liveSlot .staged 0) .commit).changeSet = c ∧
      (editing c (liveSlot .staged 0) .commit).passedCommand .u0 = some .commit) ∧
    (editing (.opened .u0 none) (liveSlot .staged 0) .commit).duplicateFound = none ∧
    (editing (.opened .u0 none) (liveSlot .staged 0) .commit).orphanFound = none ∧
    ((editing (.opened .u0 none) (liveSlot .staged 0) .commit).setSlot 63 (liveSlot .staged 0)).duplicateFound = some (22, 63) ∧
    ((editing (.opened .u0 none) (liveSlot .staged 0) .commit).setSlot 0
      { managementSlot 0#2 0#8 with mark := true }).orphanFound = some .u0 ∧
    ((editing (.opened .u0 none) { liveSlot .staged 0 with record := some { localRecord with ports := { u0 := true, u1 := false } } }
      .commit).setSlot 0 { managementSlot 0#2 0#8 with mark := true }).orphanFound = some .u1 := by
  refine ⟨fun c _ => ⟨rfl, rfl⟩, ?_, ?_, ?_, ?_, ?_⟩ <;> decide

theorem test_meets_AbandonDiscardsTheChangeSet :
    ∀ c ∈ [ChangeSet.empty, .opened .u0 none, .opened .u1 none], (editing c (liveSlot .staged 0) .abandon).changeSet = c ∧
      (editing c (liveSlot .staged 0) .abandon).passedCommand .u0 = some .abandon := fun _ _ => ⟨rfl, rfl⟩

theorem test_meets_RenewAndReviveReloadTheLease :
    slotOk (liveSlot .live 2) ∧ slotOk (liveSlot .quarantined 3) ∧ slotOk (managementSlot 0#2 0#8) ∧
    slotOk (Slot.freeWith 0#8) ∧ serves (liveSlot .quarantined 3) ∧ ¬ serves (Slot.freeWith 0#8) ∧
    exampleRecord.lifetime = some 600#16 ∧ (managementRecord 0#2).lifetime = none ∧ (liveSlot .live 2).gen ≠ 8#8 ∧
    (∀ cmd ∈ [Command.renew 22 9#8, .revive 22 9#8],
      (editing .empty (liveSlot .quarantined 3) cmd).passedCommand .u0 = some cmd) :=
  ⟨test_example_slots_are_sound.1, test_example_slots_are_sound.2,
   ⟨_, managementRecord_valid 0#2, rfl, rfl, rfl⟩, rfl, .inr rfl, by unfold serves; decide, by decide, rfl, by decide, fun _ _ => rfl⟩

theorem test_meets_ReadCommandsReturnWhatTheBlocksHold :
    (∀ cmd ∈ [Command.readRecord 63, .probe .u1 exampleQuery, .readStatus, .readSegment 7, .readNotices],
      (editing .empty (liveSlot .live 0) cmd).passedCommand .u0 = some cmd) ∧
    ((editing .empty (liveSlot .live 0) .commit).lookupResult .u1 exampleQuery).2 = some (22, exampleRecord) ∧
    exampleRecord.target = .segment 5 .w7 0x52#10 ∧
    ((editing .empty (liveSlot .live 0) .commit).lookupResult .u0 exampleQuery).2 = none ∧
    ((editing .empty (liveSlot .live 0) .commit).lookupResult .u0 { exampleQuery with addr := 0x2C#10 }).2 =
      some (0, managementRecord 0#2) := by
  exact ⟨fun _ _ => rfl, by decide⟩

theorem test_meets_ConfigurationCommandsStoreTheirValues :
    (∀ cmd ∈ [Command.segmentConfig 5 { rate := some .fast, mode := none, busFree := none, timeout := none, retryLimit := none },
        .portConfig .u1 1#8, .globalConfig 0xFF#8 0#8], (executing State.reset .u0 (.passed cmd)).passedCommand .u0 = some cmd) ∧
    ((withSeg 5 (seg .disabled)).seg 5).state = .disabled ∧ ((withSeg 5 (seg .faulted)).seg 5).state ≠ .disabled := by
  refine ⟨fun _ _ => rfl, ?_, ?_⟩ <;> rw [seg_withSeg] <;> decide

theorem test_meets_RestartTakesItsFiveSteps :
    (∀ progress ∈ [Progress.passed .restart, .restarting 1 0#8 0#8, .restarting 2 0#8 0#8, .restarting 3 1#8 0x2C#8,
        .restarting 4 1#8 0x2C#8], ∀ ph, let s := executing (withPort .u1 (ctx ph)) .u0 progress;
      (∃ e, (s.interpOf .u0).execution = some e ∧ e.progress = progress) ∧ (s.port (otherPort .u0)).phase = ph) ∧
    segmentsOk (withSeg 5 (seg .owned)) := by
  have sound := fun st => And.intro (test_each_state_has_a_sound_segment st).1 (test_each_state_has_a_sound_segment st).2.1
  refine ⟨fun _ _ ph => ⟨⟨_, rfl, rfl⟩, (test_each_phase_has_a_sound_context ph).2⟩, fun g => ?_⟩
  by_cases e : g = 5
  · rw [e, seg_withSeg]; exact sound _
  · have : (withSeg 5 (seg .owned)).seg g = seg .disabled := by
      rw [withSeg, State.seg_setSeg, if_neg e]; revert g; decide
    rw [this]; exact sound _

theorem test_meets_NoticesAreRaisedAndCleared :
    (executing State.reset .u0 (.passed (.clearNotices 0x80#8))).passedCommand .u0 = some (.clearNotices 0x80#8) ∧
      (0x80#8).getLsbD Kind.segmentCleared.number.val = true ∧ (0x80#8).getLsbD Kind.miss.number.val = false :=
  ⟨rfl, by decide, by decide⟩

/-! ### Sound states that take a step -/

theorem test_meets_EveryStepKeepsTheNoticesSound :
    let s := { State.reset.withAlertMask 0x01#8 with pending := [] }.raise (.miss .u1);
    noticesOk s ∧ s.alertLow = true ∧ ∃ t, step s = .next t := by
  refine ⟨⟨fun k => ?_, by decide⟩, by decide, _, rfl⟩
  cases k <;> exact ⟨by decide, by decide⟩

theorem test_meets_EveryStepKeepsTheSegmentsSound :
    segmentsOk { withSeg 5 (seg .owned) with pending := [.addressEnd 5 1] } ∧
      ∃ t, step { withSeg 5 (seg .owned) with pending := [.addressEnd 5 1] } = .next t :=
  ⟨test_meets_RestartTakesItsFiveSteps.2, _, rfl⟩

theorem test_meets_EveryStepKeepsThePortsSound :
    portsOk { withPort .u1 (ctx .write) with pending := [.writeDataByte .u1 3#8] } ∧
      ∃ t, step { withPort .u1 (ctx .write) with pending := [.writeDataByte .u1 3#8] } = .next t := by
  refine ⟨fun p => ?_, _, rfl⟩
  cases p
  · exact (test_each_phase_has_a_sound_context .idle).1
  · exact (test_each_phase_has_a_sound_context .write).1

theorem test_meets_EveryStepKeepsTheTableAndSettingsSound :
    (TableOk { withSlot (liveSlot .quarantined 3) with pending := [.leaseExpiry 22] } ∧
      ∃ t, step { withSlot (liveSlot .quarantined 3) with pending := [.leaseExpiry 22] } = .next t) ∧
    (SettingsOk (withPort .u0 { ctx .idle with holdLimit := 1#8 }) ∧
      ∃ t, step (withPort .u0 { ctx .idle with holdLimit := 1#8 }) = .next t) := by
  have t := test_example_tables_are_sound .quarantined 3 (.inr rfl) test_example_slots_are_sound.2
  refine ⟨⟨⟨t.slots, t.changeSet, t.unique, t.managed⟩, _, rfl⟩, ⟨?_, ?_, ?_, ?_⟩, _, rfl⟩
  · intro p; cases p <;> exact ⟨.none, [], rfl, by decide⟩
  · intro p e h; cases p <;> cases h
  · intro p; cases p <;> decide
  · intro g; revert g; decide

/-- U1 writes through the example route: bound to slot 22, owning S5, its transaction open; its Stop waits in the queue. -/
def writing : State :=
  { (((withSlot (liveSlot .live 2)).setSlot 22 ((liveSlot .live 2).bound 0)).setSeg 5 (ownedSeg [] .none .boundary)).setPort .u1
      (ctx .write) with pending := [.upstreamStop .u1] }

theorem writing_u0 : writing.port .u0 = PortCtl.reset := rfl

theorem writing_u1 : writing.port .u1 = ctx .write := rfl

theorem writing_slot (k : SlotIx) :
    writing.slot k = if k = 22 then (liveSlot .live 2).bound 0 else State.reset.slot k := by
  have e : writing.slot k = ((withSlot (liveSlot .live 2)).setSlot 22 ((liveSlot .live 2).bound 0)).slot k := rfl
  rw [e, State.slot_setSlot, withSlot, State.slot_setSlot]
  split <;> rfl

theorem writing_seg (g : SegIx) : writing.seg g = if g = 5 then ownedSeg [] .none .boundary else Segment.reset := by
  have e : writing.seg g = (State.reset.setSeg 5 (ownedSeg [] .none .boundary)).seg g := rfl
  have reset : ∀ g, State.reset.seg g = Segment.reset := by decide
  rw [e, State.seg_setSeg, reset]

theorem test_writing_ports_are_sound : portsOk writing := by
  intro p
  cases p
  · rw [writing_u0]; exact (test_each_phase_has_a_sound_context .idle).1
  · rw [writing_u1]; exact (test_each_phase_has_a_sound_context .write).1

theorem test_writing_segments_are_sound : segmentsOk writing := by
  intro g
  rw [writing_seg]
  split
  · exact test_owned_segments_are_sound _ _ _ (by simp)
  · exact ⟨(test_each_state_has_a_sound_segment .disabled).1, (test_each_state_has_a_sound_segment .disabled).2.1⟩

theorem test_writing_table_is_sound : TableOk writing := by
  have base := test_example_tables_are_sound .live 2 (.inl rfl) test_example_slots_are_sound.1
  have bound := tableOk_setSlot base 22 (x := (liveSlot .live 2).bound 0)
    (Slot.bound_ok test_example_slots_are_sound.1 rfl 0) (by rw [slot_withSlot]; exact Slot.bound_kept _ 0)
  exact ⟨bound.slots, bound.changeSet, bound.unique, bound.managed⟩

theorem test_meets_EveryStepKeepsTheInFlightCounts :
    portsOk writing ∧ TableOk writing ∧ countsOk writing ∧ countsExact writing ∧ nextGenerationsFresh writing ∧
      (writing.slot 22).inflight = 1 ∧ ∃ t, step writing = .next t := by
  have claims : ∀ k gen, writing.claimsOn k gen = if (22, 9#8) = (k, gen) then 1 else 0 := fun k gen => by
    show List.count (k, gen) [] + List.count (k, gen) [((22 : SlotIx), 9#8)] = _
    simp [List.count_singleton]
  have idle : ∀ k, k ≠ 22 → (State.reset.slot k).inflight = 0 := by decide
  have gen22 : (writing.slot 22).gen = 9#8 := rfl
  refine ⟨test_writing_ports_are_sound, test_writing_table_is_sound, ⟨fun p => ?_, fun k => ?_⟩, fun k => ?_, fun k => ?_, rfl,
    _, rfl⟩
  · cases p
    · rw [writing_u0]; constructor <;> simp [PortCtl.claims, PortCtl.reset]
    · rw [writing_u1]; constructor <;> simp [PortCtl.claims, ctx, PortCtl.reset]
  · by_cases e : k = 22
    · rw [claims, e, gen22]; exact Nat.le_refl 1
    · rw [writing_slot, if_neg e, idle k e]; exact Nat.zero_le _
  · by_cases e : k = 22
    · rw [claims, e, gen22]; exact ⟨fun _ => rfl, nofun⟩
    · rw [claims, if_neg fun h => e (Prod.mk.inj h).1.symm, writing_slot, if_neg e, idle k e]; exact ⟨fun _ => rfl, fun _ => rfl⟩
  · rw [claims]
    by_cases e : k = 22
    · rw [e, gen22]; decide
    · exact if_neg fun h => e (Prod.mk.inj h).1.symm

theorem test_meets_EveryStepKeepsTheSegmentLinks :
    portsOk writing ∧ segmentsOk writing ∧ linksOk writing ∧ (writing.seg 5).owner = some .u1 ∧ ∃ t, step writing = .next t := by
  have away : writing.stands .u0 .away := fun g => by
    rw [writing_seg]; split <;> rfl
  have owner : writing.stands .u1 (.owner 5) := ⟨rfl, rfl, fun h e => by rw [writing_seg, if_neg e]; rfl⟩
  have execution : ∀ p, (writing.interpOf p).execution = none := fun p => by cases p <;> rfl
  have quiet : ∀ p, ¬ writing.restartRuns p := by
    rintro p ⟨e, h, _⟩; rw [execution] at h; cases h
  refine ⟨test_writing_ports_are_sound, test_writing_segments_are_sound, ⟨fun p => ?_, fun g => ?_⟩, rfl, _, rfl⟩
  · cases p
    · refine ⟨fun _ => ⟨.away, away, .inl trivial⟩, nofun, nofun, ⟨nofun, nofun, fun g => ?_⟩, fun g h => ?_, fun h => absurd h (quiet _)⟩
      · rw [writing_seg]; split <;> exact Nat.le_refl 0
      · rw [writing_seg] at h; split at h <;> cases h
    · refine ⟨nofun, nofun, fun g h => ?_, ⟨nofun, nofun, fun g => ?_⟩, fun g h n => ?_, fun h => absurd h (quiet _)⟩
      · cases h; exact ⟨nofun, .inr ⟨owner, nofun, rfl⟩⟩
      · rw [writing_seg]; split <;> exact Nat.le_refl 0
      · rw [writing_seg] at h
        split at h
        · next e => subst e; exact absurd rfl n
        · cases h
  · rw [writing_seg]; split <;> decide

/-- A state in which U0 may stage the example image into slot 22 and a READ_RECORD of U1 has been passed on. -/
def stagingAndReading (i : Image) : State :=
  executing (editing .empty (Slot.freeWith 8#8) (.stage 22 i)) .u1 (.passed (.readRecord 22))

theorem test_the_other_port_reads_what_was_staged :
    ∃ i t, Image.ofBytes imageBytes = some i ∧ exec (.stage .u0 .atOnce) (stagingAndReading i) = .next t ∧
      t.passedCommand .u1 = some (.readRecord 22) ∧
      recordPayload t.now (t.slot 22) = [1#8] ++ imageBytes ++ [9#8, 0#8, 0#8, 0#8, 0#8, 0#8] :=
  ⟨_, _, rfl, rfl, rfl, by decide⟩

theorem test_meets_StagedImagesAreReturnedByteForByte :
    ∃ i, Image.ofBytes imageBytes = some i ∧ i.firstFailure = none ∧
      (editing .empty (Slot.freeWith 8#8) (.stage 22 i)).passedCommand .u0 = some (.stage 22 i) ∧
      mayCommand (editing .empty (Slot.freeWith 8#8) (.stage 22 i)) .u0 ∧
      ((editing .empty (Slot.freeWith 8#8) (.stage 22 i)).slot 22).state = .free :=
  ⟨_, rfl, by decide, rfl, .inl rfl, rfl⟩

/-! ### Reset, and the start of a transaction -/

theorem test_reset_values :
    (State.reset.port .u0).holdLimit = 100#8 ∧ (State.reset.seg 7).config.timeout = 25#8 ∧ State.reset.idleLimit = 50#8 ∧
      (State.reset.slot 0).state = .live ∧ (State.reset.slot 63).state = .free ∧ State.reset.pending = [] := by decide

theorem test_start_then_address_presents_the_lookup :
    ∃ s t, step { State.reset with pending := [.upstreamStart .u1, .addressByte .u1 0x2C#7 .write] } = .next s ∧
      step s = .next t ∧ (t.port .u1).toTable = [.lookup { width := .w7, addr := 0x2C#10, dir := .write }] ∧
      (t.port .u1).hold = some 80000 :=
  ⟨_, _, rfl, rfl, by decide, by decide⟩

end Sys2Proof.Tests
end

section
/-! Which slot wins a lookup (R28, R29): the model's bit masks position by position, its selection as the first greatest
element of the competing slots, and the statement put together from the two. -/

namespace Sys2Proof.Machine

/-! ### Fixed positions, one by one (R5) -/

/-- The number of address positions of a width (R5). -/
def Width.positions : Width → Nat
  | .w7 => 7
  | .w10 => 10

theorem getLsbD_widthMask (w : Width) (i : Nat) : (widthMask w).getLsbD i = decide (i < w.positions) := by
  have allOnes : widthMask w = (BitVec.allOnes w.positions).setWidth 10 := by cases w <;> rfl
  have within : w.positions ≤ 10 := by cases w <;> decide
  rw [allOnes, BitVec.getLsbD_setWidth, BitVec.getLsbD_allOnes, ← Bool.decide_and]
  exact decide_eq_decide.mpr (and_iff_right_of_imp fun h => h.trans_le within)

namespace Record

theorem getLsbD_fixedMask (r : Record) (i : Nat) :
    r.fixedMask.getLsbD i = true ↔ i < r.width.positions ∧ r.mask.getLsbD i = true := by
  simp [fixedMask, getLsbD_widthMask, and_comm]

/-- Two addresses agree at every fixed position of the match. -/
def AgreeAtFixed (r : Record) (a b : Addr) : Prop :=
  ∀ i, i < r.width.positions → r.mask.getLsbD i = true → a.getLsbD i = b.getLsbD i

/-- The mask arithmetic of the match set and of the duplicate check compares the fixed positions. -/
theorem xor_and_fixedMask_eq_zero (r : Record) (a b : Addr) :
    (a ^^^ b) &&& r.fixedMask = 0#10 ↔ r.AgreeAtFixed a b := by
  have bitwise : (a ^^^ b) &&& r.fixedMask = 0#10 ↔ ∀ i, r.fixedMask.getLsbD i = true → a.getLsbD i = b.getLsbD i := by
    refine ⟨fun h i hi => ?_, fun h => BitVec.eq_of_getLsbD_eq fun i _ => ?_⟩
    · have hz := congrArg (BitVec.getLsbD · i) h
      simpa [hi] using hz
    · cases hi : r.fixedMask.getLsbD i
      · simp [hi]
      · simp [h i hi]
  simp only [bitwise, getLsbD_fixedMask, and_imp, AgreeAtFixed]

theorem covers_iff (r : Record) (a : Addr) : r.covers a = true ↔ r.AgreeAtFixed a r.key := by
  rw [covers, beq_iff_eq, xor_and_fixedMask_eq_zero]

/-- The count over all ten positions is the count over those of the match width. -/
theorem fixedCount_eq (r : Record) :
    r.fixedCount = ((List.range r.width.positions).filter fun i => r.mask.getLsbD i).length := by
  have split : List.range 10 = List.range r.width.positions ++ List.range' r.width.positions (10 - r.width.positions) := by
    cases r.width <;> rfl
  have outside : (List.range' r.width.positions (10 - r.width.positions)).countP (r.fixedMask.getLsbD ·) = 0 := by
    refine List.countP_eq_zero.mpr fun i hi hfixed => ?_
    have := ((getLsbD_fixedMask r i).mp hfixed).1
    have := (List.mem_range'_1.mp hi).1
    omega
  have inside : (List.range r.width.positions).countP (r.fixedMask.getLsbD ·) =
      (List.range r.width.positions).countP (r.mask.getLsbD ·) :=
    List.countP_congr fun i hi => by simp [getLsbD_fixedMask, List.mem_range.mp hi]
  rw [fixedCount, split, List.countP_append, inside, outside, Nat.add_zero, List.countP_eq_length_filter]

end Record

/-! ### The competing slots (R28) -/

/-- The slot competes in a lookup of port `p` with the record `r` that it holds. -/
def Slot.CompetesWith (x : Slot) (p : Port) (q : Query) (r : Record) : Prop :=
  (x.state = .live ∨ x.state = .quarantined) ∧ x.record = some r ∧ r.width = q.width ∧ r.ports.get p = true ∧
    r.AgreeAtFixed q.addr r.key

theorem Slot.inService_iff (x : Slot) : x.inService = true ↔ x.state = .live ∨ x.state = .quarantined := by
  simp [inService]

theorem Slot.competes_iff (x : Slot) (p : Port) (q : Query) :
    x.competes p q = true ↔ ∃ r, x.CompetesWith p q r := by
  simp only [competes, recordIs, Bool.and_eq_true, inService_iff, Option.any_eq_true, beq_iff_eq, Record.covers_iff,
    CompetesWith, ← exists_and_left, and_assoc]

namespace Slot.CompetesWith

variable {x y : Slot} {p : Port} {q : Query} {r a b : Record}

theorem inService (h : x.CompetesWith p q r) : x.inService = true := x.inService_iff.mpr h.1

theorem record_eq (h : x.CompetesWith p q r) : x.record = some r := h.2.1

theorem fixedCount_eq (h : x.CompetesWith p q r) : x.fixedCount = r.fixedCount := by
  simp [Slot.fixedCount, h.record_eq]

/-- Two records that match one query on one port with the same mask duplicate each other: both keys equal the address at the
fixed positions they share (R29, R141). -/
theorem duplicates (hx : x.CompetesWith p q a) (hy : y.CompetesWith p q b) (hm : a.mask = b.mask) :
    a.duplicates b = true := by
  obtain ⟨-, -, wa, pa, ka⟩ := hx
  obtain ⟨-, -, wb, pb, kb⟩ := hy
  have width : a.width = b.width := wa.trans wb.symm
  have keys : a.AgreeAtFixed a.key b.key := fun i hi hmi =>
    (ka i hi hmi).symm.trans (kb i (width ▸ hi) (hm ▸ hmi))
  have port : (a.ports.u0 && b.ports.u0 || a.ports.u1 && b.ports.u1) = true := by
    cases p
    · simp [show a.ports.u0 = true from pa, show b.ports.u0 = true from pb]
    · simp [show a.ports.u1 = true from pa, show b.ports.u1 = true from pb]
  simp [Record.duplicates, width, hm, (Record.xor_and_fixedMask_eq_zero a _ _).mpr keys, port]

end Slot.CompetesWith

theorem TableOk.mask_ne_of_competesWith {s : State} (h : TableOk s) {p : Port} {q : Query} {i j : SlotIx} {a b : Record}
    (hij : i ≠ j) (ha : (s.slot i).CompetesWith p q a) (hb : (s.slot j).CompetesWith p q b) : a.mask ≠ b.mask := by
  intro hm
  have distinct : a.duplicates b = false :=
    h.unique i j a b hij ha.inService hb.inService ha.record_eq hb.record_eq
  exact absurd (ha.duplicates hb hm) (by simp [distinct])

/-! ### The selection (R29) -/

/-- In a sorted list the first position of an element follows the order of the elements. -/
theorem idxOf_le_idxOf_iff_of_sortedLT {l : List SlotIx} (hl : l.SortedLT) {i j : SlotIx} (hi : i ∈ l) (hj : j ∈ l) :
    l.idxOf i ≤ l.idxOf j ↔ i ≤ j := by
  rw [← hl.getElem_le_getElem_iff (hi := List.idxOf_lt_length_of_mem hi) (hj := List.idxOf_lt_length_of_mem hj),
    List.getElem_idxOf, List.getElem_idxOf]

/-- The slots that compete in a lookup, in the order of their indices. -/
def competing (t : Vector Slot 64) (p : Port) (q : Query) : List SlotIx :=
  (List.finRange 64).filter fun k => (t.get k).competes p q

theorem mem_competing {t : Vector Slot 64} {p : Port} {q : Query} {k : SlotIx} :
    k ∈ competing t p q ↔ (t.get k).competes p q = true := by
  simp [competing]

theorem sortedLT_competing (t : Vector Slot 64) (p : Port) (q : Query) : (competing t p q).SortedLT :=
  ((List.sortedLT_finRange 64).pairwise.filter _).sortedLT

/-- The model's pass over the table selects the first competing slot with the greatest count. -/
theorem lookupWinner_eq_argmax (t : Vector Slot 64) (p : Port) (q : Query) :
    lookupWinner t p q = (competing t p q).argmax fun k => (t.get k).fixedCount := by
  rw [lookupWinner, competing, List.argmax, List.foldl_filter]
  congr 1
  funext best k
  unfold betterSlot
  cases best <;> rfl

theorem lookupWinner_eq_none_iff (t : Vector Slot 64) (p : Port) (q : Query) :
    lookupWinner t p q = none ↔ ∀ k, ¬ (t.get k).competes p q = true := by
  simp only [lookupWinner_eq_argmax, List.argmax_eq_none, List.eq_nil_iff_forall_not_mem, mem_competing]

theorem lookupWinner_eq_some_iff (t : Vector Slot 64) (p : Port) (q : Query) (k : SlotIx) :
    lookupWinner t p q = some k ↔ (t.get k).competes p q = true ∧ ∀ j, (t.get j).competes p q = true →
      (t.get j).fixedCount < (t.get k).fixedCount ∨ ((t.get j).fixedCount = (t.get k).fixedCount ∧ k ≤ j) := by
  rw [lookupWinner_eq_argmax, List.argmax_eq_some_iff, ← mem_competing]
  refine and_congr_right fun hk => ?_
  have order : ∀ j ∈ competing t p q, (competing t p q).idxOf k ≤ (competing t p q).idxOf j ↔ k ≤ j := fun j hj =>
    idxOf_le_idxOf_iff_of_sortedLT (sortedLT_competing t p q) hk hj
  simp only [← mem_competing]
  constructor
  · rintro ⟨most, first⟩ j hj
    rcases (most j hj).lt_or_eq with less | equal
    · exact .inl less
    · exact .inr ⟨equal, (order j hj).mp (first j hj equal.ge)⟩
  · refine fun h => ⟨fun j hj => ?_, fun j hj hle => ?_⟩
    · rcases h j hj with less | ⟨equal, -⟩
      · exact less.le
      · exact equal.le
    · rcases h j hj with less | ⟨-, lower⟩
      · exact absurd less hle.not_gt
      · exact (order j hj).mpr lower

/-! ### The winner by record -/

theorem lookupWinner_eq_none_iff_competesWith (t : Vector Slot 64) (p : Port) (q : Query) :
    lookupWinner t p q = none ↔ ∀ k r, ¬ (t.get k).CompetesWith p q r := by
  simp only [lookupWinner_eq_none_iff, Slot.competes_iff, not_exists]

theorem lookupWinner_eq_some_iff_competesWith (t : Vector Slot 64) (p : Port) (q : Query) (k : SlotIx) :
    lookupWinner t p q = some k ↔ ∃ r, (t.get k).CompetesWith p q r ∧ ∀ j u, (t.get j).CompetesWith p q u →
      u.fixedCount < r.fixedCount ∨ (u.fixedCount = r.fixedCount ∧ k ≤ j) := by
  rw [lookupWinner_eq_some_iff]
  simp only [Slot.competes_iff]
  constructor
  · rintro ⟨⟨r, hr⟩, best⟩
    refine ⟨r, hr, fun j u hu => ?_⟩
    rw [← hr.fixedCount_eq, ← hu.fixedCount_eq]
    exact best j ⟨u, hu⟩
  · rintro ⟨r, hr, best⟩
    refine ⟨⟨r, hr⟩, fun j ⟨u, hu⟩ => ?_⟩
    rw [hr.fixedCount_eq, hu.fixedCount_eq]
    exact best j u hu

/-- Settles O11: the winner's condition over the model's counts, with each count spelled over the match width. -/
theorem lookupWinnerIsTheNarrowestCompetingRoute : Obligations.LookupWinnerIsTheNarrowestCompetingRoute := by
  intro s p q width competes fixed
  have fixed_eq : ∀ r, fixed r = r.fixedCount := fun r => (Record.fixedCount_eq r).symm
  refine ⟨⟨lookupWinner_eq_none_iff_competesWith s.table p q, fun k => ?_⟩, fun h i j a b hij ha hb => ?_⟩
  · simp only [fixed_eq]
    exact lookupWinner_eq_some_iff_competesWith s.table p q k
  · exact h.mask_ne_of_competesWith hij ha hb

end Sys2Proof.Machine
end

section
/-! A Start in IDLE (R46) and the bytes of a command frame (R69): what a sound context already has in these phases, the two
events on such a context, and the optional fields of a LOCAL record. -/

namespace Sys2Proof.Machine

/-! ### What a sound context has by its phase -/

namespace PortOk

variable {q : PortCtl}

theorem link_eq_none (h : PortOk q) (notWaiting : q.phase ≠ .waitGrant) (ownsNone : q.phase.ownsSegment = false)
    (carriesNone : q.phase.receivesAddress = false) : q.link = .none := by
  cases hl : q.link with
  | none => rfl
  | queued g => exact absurd (h.queued.mpr ⟨g, hl⟩) notWaiting
  | owned g =>
    rcases h.unlinked ⟨g, hl⟩ with owns | receives
    · exact absurd owns (by simp [ownsNone])
    · exact absurd receives (by simp [carriesNone])

/-- Outside READ there is no fetched byte to drop (R95). -/
theorem dropFetched_eq_self (h : PortOk q) (notRead : q.phase ≠ .read) : q.dropFetched = q := by
  have fetched : q.fetched = none := h.fetched notRead
  have shown : q.shown = false := by
    by_contra hs
    simpa [fetched] using (h.shown (Bool.eq_true_of_not_eq_false hs)).1
  simp [PortCtl.dropFetched, ← fetched, ← shown]

end PortOk

/-! ### A Start in IDLE (R46) -/

namespace PortCtl

variable {q : PortCtl}

theorem takeStartCondition_of_idle (idle : q.phase = .idle) (free : q.hold = none) :
    q.takeStartCondition = q.takeStart := by
  simp [takeStartCondition, idle, free]

/-- Nothing is bound, linked or fetched in IDLE, so a Start has nothing to give up. -/
theorem takeStart_of_idle (h : PortOk q) (idle : q.phase = .idle) :
    q.takeStart = { q with
      phase := .address, bound := none, link := .none, count := 0, declared := none, direction := none, tenBit := none } := by
  have bound : q.bound = none := h.unbound (.inl idle)
  have link : q.link = .none := h.link_eq_none (by simp [idle]) (by rw [idle]; rfl) (by rw [idle]; rfl)
  have dropped : q.dropFetched = q := h.dropFetched_eq_self (by simp [idle])
  simp [takeStart, newAddressPhase, toPhase, dropped, bound, link]

end PortCtl

theorem exec_upstreamStart (p : Port) (s : State) :
    exec (.upstreamStart p) s = .next (s.setPort p (s.port p).takeStartCondition) := rfl

/-- Settles O5: a sound context in IDLE does not hold SCL and carries nothing, so its Start only opens the address phase. -/
theorem upstreamStartOpensAnAddressPhase : Obligations.UpstreamStartOpensAnAddressPhase := by
  intro s p h idle
  have free : (s.port p).hold = none := h.free (.inl idle)
  rw [exec_upstreamStart, PortCtl.takeStartCondition_of_idle idle free, PortCtl.takeStart_of_idle h idle]

/-! ### Bytes of a command frame (R69) -/

namespace PortCtl

variable {q : PortCtl}

/-- An answer given without a hold only records itself (R65). -/
theorem answer_of_free (free : q.hold = none) (a : Answer) : q.answer a = { q with lastAnswer := some a } := by
  simp [answer, endHold, ← free]

theorem takeCommandByte_of_room (command : q.phase = .command) (free : q.hold = none) (room : q.frame.length < 16)
    (b : Byte) : q.takeCommandByte b = { q with frame := q.frame ++ [b], lastAnswer := some .ack } := by
  simp [takeCommandByte, command, room, answer_of_free, free]

theorem takeCommandByte_of_full (command : q.phase = .command) (free : q.hold = none) (full : 16 ≤ q.frame.length)
    (b : Byte) : q.takeCommandByte b = { q with overflow := true, lastAnswer := some .nack } := by
  simp [takeCommandByte, command, full.not_gt, answer_of_free, free]

end PortCtl

theorem exec_commandByte (p : Port) (b : Byte) (s : State) :
    exec (.commandByte p b) s = .next (s.setPort p ((s.port p).takeCommandByte b)) := rfl

/-! ### The optional fields of a LOCAL record (R16) -/

/-- What check 8 asks of the fields that only a route to a segment may carry (R16). -/
theorem Image.check8_fields {i : Image} (h : i.check8 = true) (notSegment : i.kind ≠ 1#2) :
    i.limit = 0#8 ∧ i.counted = 0#1 ∧ i.threshold = 0#4 := by
  have other : i.isSegment = false := by simp [isSegment, notSegment]
  simp only [check8, other, Bool.false_or, Bool.and_eq_true, beq_iff_eq] at h
  obtain ⟨⟨⟨limit, counted⟩, threshold⟩, -⟩ := h
  exact ⟨limit, counted, threshold⟩

theorem Record.limit_and_counted_of_local {r : Record} (h : r.valid) (ht : r.target = .localPart) :
    r.limit = none ∧ r.counted = false := by
  obtain ⟨same, passes⟩ := h
  obtain ⟨-, -, -, -, -, -, -, check8⟩ := Image.firstFailure_none passes
  have kind : r.image.kind ≠ 1#2 := by simp [image, ht, kindCode]
  obtain ⟨limit, counted, -⟩ := Image.check8_fields check8 kind
  rw [← same]
  simp [ofImage, present?, limit, counted]

/-- Settles O22: SCL is not held in COMMAND, so either answer only records itself; a LOCAL record passes check 8. -/
theorem commandBytesAreCollected : Obligations.CommandBytesAreCollected := by
  refine ⟨fun s p b h command => ?_, fun r => Record.limit_and_counted_of_local⟩
  have free : (s.port p).hold = none := h.free (by simp [command])
  rw [exec_commandByte]
  refine ⟨fun room => ?_, fun full => ?_⟩
  · rw [PortCtl.takeCommandByte_of_room command free room]
  · rw [PortCtl.takeCommandByte_of_full command free full.ge]

end Sys2Proof.Machine
end

section
/-! An ADDRESS result in PROXY (R77, R78, R87): the first message of a segment taken by its event, what the context gives up
when it refuses the address byte, and the two results at an owner of the segment. -/

namespace Sys2Proof.Machine

/-! ### The first message of a segment -/

theorem State.takeMessage_of_firstMessage {s : State} {p : Port} {g : SegIx} {m : PortMsg} {rest : List (SegIx × PortMsg)}
    {f : PortMsg → PortCtl → Option PortCtl} {q : PortCtl} (first : firstMessage (s.port p) g m rest)
    (accepted : f m { s.port p with fromSegments := rest } = some q) : s.takeMessage p g f = s.setPort p q := by
  obtain ⟨before, after, underWay, others, rfl⟩ := first
  simp only [State.takeMessage, underWay, PortCtl.takeFrom_first others, accepted]

section

variable {s : State} {p : Port} {g : SegIx} {rest : List (SegIx × PortMsg)} {q : PortCtl}

theorem exec_addressAck_of_firstMessage (first : firstMessage (s.port p) g (.addressResult true) rest)
    (taken : ({ s.port p with fromSegments := rest } : PortCtl).takeAddressAck g = q) :
    exec (.addressAck p g) s = .next (s.setPort p q) :=
  congrArg _ (State.takeMessage_of_firstMessage first (congrArg some taken))

theorem exec_addressNack_of_firstMessage (first : firstMessage (s.port p) g (.addressResult false) rest)
    (taken : ({ s.port p with fromSegments := rest } : PortCtl).takeAddressNack g = q) :
    exec (.addressNack p g) s = .next (s.setPort p q) :=
  congrArg _ (State.takeMessage_of_firstMessage first (congrArg some taken))

end

namespace PortCtl

variable {q : PortCtl} {g : SegIx} {b : Binding}

/-! ### What the context gives up (R23, R47) -/

theorem giveUpBinding_eq (q : PortCtl) :
    q.giveUpBinding = { q with bound := none, tenBit := none, toTable := q.toTable ++ unbindSent q.bound } := by
  unfold giveUpBinding
  cases bound : q.bound with
  | none => simp [unbindSent, ← bound]
  | some b => rfl

theorem releaseSegment_of_owned (owned : q.link = .owned g) :
    q.releaseSegment = { q with
      link := .none, fetched := none, shown := false, toSegments := q.toSegments ++ [(g, .release)] } := by
  simp [releaseSegment, owned, sendSegment, dropFetched]

theorem refuseCarried_of_owned (owned : q.link = .owned g) :
    q.refuseCarried = { q.ended .unaddressed with hold := none, lastAnswer := some .nack } := by
  rw [refuseCarried, giveUpBinding_eq, releaseSegment_of_owned owned]
  simp [refuseAddress, toPhase, dropFetched, answer, endHold, ended, owned, releaseSent]

/-! ### The two results (R77, R78, R87) -/

theorem report_of_bound (bound : q.bound = some b) (ack : Bool) :
    q.report ack = q.sendTable (if ack then .acceptance b.slot b.gen else .refusal b.slot b.gen) := by
  simp [report, bound]

theorem takeAddressAck_of_write (proxy : q.phase = .proxy) (owned : q.link = .owned g) (bound : q.bound = some b)
    (write : q.direction = some .write) :
    q.takeAddressAck g = { q with
      phase := .write, count := 0, hold := none, fetched := none, shown := false, lastAnswer := some .ack,
      toTable := q.toTable ++ [.acceptance b.slot b.gen] } := by
  simp [takeAddressAck, proxy, owned, write, report_of_bound bound, sendTable, answer, endHold, toPhase, dropFetched]

/-- The first READ_BYTE is asked and counted in the event of the result, whatever the byte limit (R87). -/
theorem takeAddressAck_of_read (proxy : q.phase = .proxy) (owned : q.link = .owned g) (bound : q.bound = some b)
    (read : q.direction = some .read) :
    q.takeAddressAck g = { q with
      phase := .read, count := 1, hold := none, fetched := none, shown := false, lastAnswer := some .ack,
      toTable := q.toTable ++ [.acceptance b.slot b.gen],
      toSegments := q.toSegments ++ [(g, .ask .readByte)] } := by
  simp [takeAddressAck, proxy, owned, read, report_of_bound bound, sendTable, answer, endHold, toPhase, dropFetched,
    askSegment, sendSegment, countUp]

/-- The report goes to the table manager ahead of the unbind (R78). -/
theorem takeAddressNack_of_owned (proxy : q.phase = .proxy) (owned : q.link = .owned g) (bound : q.bound = some b) :
    q.takeAddressNack g = { q.ended .unaddressed with
      hold := none, lastAnswer := some .nack,
      toTable := q.toTable ++ [.refusal b.slot b.gen, .unbind b.slot b.gen] } := by
  have reported : (q.report false).link = .owned g := by rw [report_of_bound bound]; exact owned
  rw [takeAddressNack, if_pos ⟨proxy, owned⟩, refuseCarried_of_owned reported, report_of_bound bound]
  simp [ended, sendTable, bound, unbindSent]

end PortCtl

/-- Settles O27: the result is the segment's first message, and the context takes it as the owner in PROXY. -/
theorem addressResultsAreMirrored : Obligations.AddressResultsAreMirrored := by
  intro s p g rest b proxy owned bound
  refine ⟨fun first => ⟨fun write => ?_, fun read => ?_⟩, fun first => ?_⟩
  · exact exec_addressAck_of_firstMessage first (PortCtl.takeAddressAck_of_write proxy owned bound write)
  · exact exec_addressAck_of_firstMessage first (PortCtl.takeAddressAck_of_read proxy owned bound read)
  · exact exec_addressNack_of_firstMessage first (PortCtl.takeAddressNack_of_owned proxy owned bound)

end Sys2Proof.Machine
end

section
/-! The state after a device reset: what each block holds, and that it is sound in every way (R24, R44, R98, R129, R176, R199,
R205). -/

namespace Sys2Proof.Machine

namespace State

variable (straps : BitVec 2)

/-! ### What each block holds -/

theorem slot_resetWith (k : SlotIx) :
    (resetWith straps).slot k = if k = 0 then managementSlot straps 0#8 else Slot.freeWith 0#8 := by
  have zero : (0 = k.val) ↔ k = 0 := by rw [Fin.ext_iff, eq_comm]; rfl
  simp [resetWith, slot, Vector.get_eq_getElem, Vector.getElem_set, zero]

@[simp] theorem seg_resetWith (g : SegIx) : (resetWith straps).seg g = Segment.reset := by
  simp [resetWith, seg, Vector.get_eq_getElem]

@[simp] theorem port_resetWith (p : Port) : (resetWith straps).port p = PortCtl.reset := by cases p <;> rfl

@[simp] theorem interpOf_resetWith (p : Port) : (resetWith straps).interpOf p = InterpPort.reset := by cases p <;> rfl

@[simp] theorem note_resetWith (k : Kind) : (resetWith straps).note k = Note.absent := by
  simp [resetWith, note, Vector.get_eq_getElem]

end State

/-! ### The reset state is sound -/

theorem alertLevel_replicate_absent (mask : Byte) : alertLevel (Vector.replicate 8 Note.absent) mask = false := by
  simp [alertLevel, Note.absent, Vector.get_eq_getElem]

section

variable (straps : BitVec 2)

theorem noticesOk_resetWith : noticesOk (State.resetWith straps) := by
  refine ⟨fun k => ?_, (alertLevel_replicate_absent 0#8).symm⟩
  rw [noteOk, State.note_resetWith]
  exact absent_ok k.universe

/-- With nothing sampled low the timer is stopped, and no condition of it holds (R119). -/
theorem timerOk_reset : timerOk Segment.reset := by
  simp [timerOk, Segment.reset, Segment.lineHeldLow, Segment.timerCanRun]

theorem segmentsOk_resetWith : segmentsOk (State.resetWith straps) := fun g => by
  rw [State.seg_resetWith]
  exact ⟨Segment.reset_ok, timerOk_reset⟩

theorem portsOk_resetWith : portsOk (State.resetWith straps) := fun p => by
  rw [State.port_resetWith]
  exact PortCtl.reset_ok

theorem tableOk_resetWith : TableOk (State.resetWith straps) := by
  refine tableOk_restarted straps 0#8 (by simp [State.slot_resetWith]) fun k hk => ?_
  rw [State.slot_resetWith, if_neg hk]
  rfl

theorem settingsOk_resetWith : SettingsOk (State.resetWith straps) where
  buffers p := by rw [State.interpOf_resetWith]; exact ⟨.none, [], rfl, by decide⟩
  executions p e h := by simp [InterpPort.reset] at h
  holdLimits p := by rw [State.port_resetWith]; decide
  timeouts g := by rw [State.seg_resetWith]; decide

theorem claims_reset : PortCtl.reset.claims = [] := rfl

theorem claimsOn_resetWith (k : SlotIx) (gen : BitVec 8) : (State.resetWith straps).claimsOn k gen = 0 := by
  simp [State.claimsOn, claims_reset]

theorem inflight_resetWith (k : SlotIx) : ((State.resetWith straps).slot k).inflight = 0 := by
  rw [State.slot_resetWith]
  split <;> rfl

theorem bindingOk_reset : BindingOk PortCtl.reset where
  single := by simp [claims_reset]
  answers := rfl
  settled h := by simp [PortCtl.reset] at h
  order before q' after h := by simp [PortCtl.reset] at h

theorem countsOk_resetWith : countsOk (State.resetWith straps) := by
  refine ⟨fun p => ?_, fun k => ?_⟩
  · rw [State.port_resetWith]; exact bindingOk_reset
  · rw [inflight_resetWith]; exact Nat.zero_le _

theorem countsExact_resetWith : countsExact (State.resetWith straps) := fun k =>
  ⟨fun _ => by rw [inflight_resetWith, claimsOn_resetWith], fun _ => claimsOn_resetWith straps _ _⟩

theorem nextGenerationsFresh_resetWith : nextGenerationsFresh (State.resetWith straps) := fun k =>
  claimsOn_resetWith straps k _

theorem stands_away_resetWith (p : Port) : (State.resetWith straps).stands p .away := fun g => by
  rw [State.seg_resetWith]; rfl

theorem linkOk_resetWith (p : Port) : LinkOk (State.resetWith straps) p where
  none _ := ⟨.away, stands_away_resetWith straps p, .inl (by rw [State.port_resetWith]; trivial)⟩
  queued g h := by simp [PortCtl.reset] at h
  owned g h := by simp [PortCtl.reset] at h
  numbers := by
    refine ⟨fun m hm => ?_, fun g n hm => ?_, fun g => ?_⟩
    · simp [PortCtl.reset] at hm
    · simp [PortCtl.reset] at hm
    · rw [State.seg_resetWith, State.port_resetWith]; cases p <;> decide
  given g h := by simp [Segment.reset] at h
  waits h := by
    obtain ⟨e, he, -⟩ := h
    simp [InterpPort.reset] at he

theorem linksOk_resetWith : linksOk (State.resetWith straps) :=
  ⟨linkOk_resetWith straps, fun g => by rw [State.seg_resetWith]; exact Nat.zero_le 3⟩

end

/-- Settles O59: with nothing bound, linked or sent, each condition is read off the blocks' reset values. -/
theorem theResetStateIsSound : Obligations.TheResetStateIsSound := fun straps =>
  ⟨noticesOk_resetWith straps, segmentsOk_resetWith straps, portsOk_resetWith straps, tableOk_resetWith straps,
    settingsOk_resetWith straps, countsOk_resetWith straps, countsExact_resetWith straps,
    nextGenerationsFresh_resetWith straps, linksOk_resetWith straps⟩

/-! ### DEVICE_RESET -/

theorem exec_deviceReset (straps : BitVec 2) (s : State) :
    exec (.deviceReset straps) s = .next { State.resetWith straps with now := s.now, pending := s.pending } := rfl

/-- Settles O3: every block is read off the reset state, the clock and the queue off the state before. -/
theorem deviceResetSetsEveryBlock : Obligations.DeviceResetSetsEveryBlock := fun straps s => by
  refine ⟨_, exec_deviceReset straps s, rfl, rfl, rfl, rfl, ?slotZero, fun k hk => ?others, fun p => ?port, fun g => ?seg,
    fun p => ?interp, rfl, rfl, fun k => ?note, rfl⟩
  case slotZero => exact State.slot_resetWith straps 0
  case others => exact (State.slot_resetWith straps k).trans (if_neg hk)
  case port => exact State.port_resetWith straps p
  case seg => exact State.seg_resetWith straps g
  case interp => exact State.interpOf_resetWith straps p
  case note => exact State.note_resetWith straps k

end Sys2Proof.Machine
end

section
/-! Every command answers a next state, with the queue as it was, that is sound in each way in which the state before was
(log 23): one lemma for each kind of event, then the commands. -/

namespace Sys2Proof.Machine

/-! ### The queue of commands is left alone -/

namespace State

@[simp] theorem raiseAll_pending (s : State) (ns : List Notice) : (s.raiseAll ns).pending = s.pending := by
  obtain ⟨_, _, e⟩ := raiseAll_only s ns
  rw [e]

@[simp] theorem raiseIf_pending (s : State) (b : Bool) (n : Notice) : (s.raiseIf b n).pending = s.pending := by
  cases b <;> rfl

@[simp] theorem deliver_pending (s : State) (g : SegIx) (sends : List (Port × PortMsg)) :
    (s.deliver g sends).pending = s.pending := by
  obtain ⟨_, e⟩ := deliver_only s g sends
  rw [e]

@[simp] theorem onSegment_pending (s : State) (g : SegIx) (r : SegStep) : (s.onSegment g r).pending = s.pending := by
  simp [onSegment]

@[simp] theorem onPortMiss_pending (s : State) (p : Port) (r : PortCtl × Bool) :
    (s.onPortMiss p r).pending = s.pending := by
  simp [onPortMiss]

@[simp] theorem reply_pending (s : State) (p : Port) (t : ReplyTime) (r : Result) :
    (s.reply p t r).pending = s.pending := by
  obtain ⟨_, _, e, -⟩ := reply_only s p t r
  rw [e]

@[simp] theorem writeWaiting_pending (s : State) (p : Port) : (s.writeWaiting p).pending = s.pending := by
  obtain ⟨_, _, e, -⟩ := writeWaiting_only s p
  rw [e]

@[simp] theorem takeFrame_pending (s : State) (p : Port) (f : Frame) : (s.takeFrame p f).pending = s.pending := by
  obtain ⟨_, _, e, -⟩ := takeFrame_only s p f
  rw [e]

@[simp] theorem takeMessage_pending (s : State) (p : Port) (g : SegIx) (f : PortMsg → PortCtl → Option PortCtl) :
    (s.takeMessage p g f).pending = s.pending := by
  obtain e | ⟨_, _, _, -, e⟩ := takeMessage_only s p g f <;> rw [e]
  rfl

@[simp] theorem reloadIdle_pending (s : State) : s.reloadIdle.pending = s.pending := by
  obtain ⟨_, e⟩ := reloadIdle_only s
  rw [e]

@[simp] theorem bindWinner_pending (s : State) (b : Option Binding) : (s.bindWinner b).pending = s.pending := by
  cases b <;> rfl

@[simp] theorem takeLookup_pending (s : State) (p : Port) (q : Query) : (s.takeLookup p q).pending = s.pending := by
  simp [takeLookup, replyTo, dropTableMsg]

@[simp] theorem takePrefixTest_pending (s : State) (p : Port) (h : BitVec 2) :
    (s.takePrefixTest p h).pending = s.pending := by
  simp [takePrefixTest, replyTo, dropTableMsg]

/-- State `t` is `s` but for the table and the change set. -/
def TableOnly (s t : State) : Prop := ∃ a b, t = { s with table := a, changeSet := b }

theorem tableOnly_refl (s : State) : s.TableOnly s := ⟨_, _, rfl⟩

theorem TableOnly.pending {s t : State} (h : s.TableOnly t) : t.pending = s.pending := by
  obtain ⟨_, _, rfl⟩ := h
  rfl

theorem tableOnly_reloadIdle (s : State) : s.TableOnly s.reloadIdle := by
  obtain ⟨_, e⟩ := reloadIdle_only s
  exact ⟨_, _, e⟩

theorem tableOnly_setSlot_reloadIdle (s : State) (k : SlotIx) (x : Slot) : s.TableOnly (s.setSlot k x).reloadIdle := by
  obtain ⟨_, e⟩ := reloadIdle_only (s.setSlot k x)
  exact ⟨_, _, e⟩

theorem takeStage_tableOnly (s : State) (p : Port) (k : SlotIx) (i : Image) : s.TableOnly (s.takeStage p k i).1 := by
  unfold takeStage
  split
  · exact tableOnly_refl s
  split
  · exact tableOnly_reloadIdle s
  split
  · exact tableOnly_reloadIdle s
  · exact ⟨_, _, rfl⟩

theorem takeUnstage_tableOnly (s : State) (p : Port) (k : SlotIx) : s.TableOnly (s.takeUnstage p k).1 := by
  unfold takeUnstage
  split
  · exact tableOnly_refl s
  split
  · exact tableOnly_reloadIdle s
  · exact tableOnly_setSlot_reloadIdle s _ _

theorem takeMark_tableOnly (s : State) (p : Port) (k : SlotIx) (gen : BitVec 8) : s.TableOnly (s.takeMark p k gen).1 := by
  unfold takeMark
  split
  · exact tableOnly_refl s
  split
  · exact tableOnly_reloadIdle s
  split
  · exact tableOnly_reloadIdle s
  · exact ⟨_, _, rfl⟩

theorem takeUnmark_tableOnly (s : State) (p : Port) (k : SlotIx) (gen : BitVec 8) : s.TableOnly (s.takeUnmark p k gen).1 := by
  unfold takeUnmark
  split
  · exact tableOnly_refl s
  split
  · exact tableOnly_reloadIdle s
  split
  · exact tableOnly_reloadIdle s
  · exact tableOnly_setSlot_reloadIdle s _ _

theorem takeCommit_tableOnly (s : State) (p : Port) : s.TableOnly (s.takeCommit p).1 := by
  unfold takeCommit
  split
  · exact tableOnly_refl s
  split
  · exact tableOnly_refl s
  split
  · exact tableOnly_reloadIdle s
  split
  · exact tableOnly_reloadIdle s
  · exact ⟨_, _, rfl⟩

theorem takeAbandon_tableOnly (s : State) (p : Port) : s.TableOnly (s.takeAbandon p).1 := by
  unfold takeAbandon
  split
  · exact tableOnly_refl s
  split
  · exact tableOnly_refl s
  · exact ⟨_, _, rfl⟩

theorem takeRenew_tableOnly (s : State) (k : SlotIx) (gen : BitVec 8) : s.TableOnly (s.takeRenew k gen).1 := by
  unfold takeRenew
  split
  · exact tableOnly_refl s
  split
  · exact tableOnly_refl s
  · exact ⟨_, _, rfl⟩

theorem takeRevive_tableOnly (s : State) (k : SlotIx) (gen : BitVec 8) : s.TableOnly (s.takeRevive k gen).1 := by
  unfold takeRevive
  split
  · exact tableOnly_refl s
  split
  · exact tableOnly_refl s
  · exact ⟨_, _, rfl⟩

theorem takeSegmentConfig_pending (s : State) (g : SegIx) (c : ConfigChange) :
    (s.takeSegmentConfig g c).1.pending = s.pending := by
  unfold takeSegmentConfig
  split <;> rfl

theorem restartStep_pending (s : State) (p : Port) (straps : BitVec 2) :
    (s.restartStep p straps).pending = s.pending := by
  refine restartStep_induct (P := fun t => t.pending = s.pending) ?_ ?_ ?_ ?_ ?_ ?_ rfl
  · exact fun t n g a h => h
  · exact fun t h => h
  · exact fun t g h => (onSegment_pending t g _).trans h
  · exact fun t h => h
  · exact fun t h => h
  · exact fun t g a h => h

end State

/-! ### The hold limit and the result of a completion -/

theorem PortCtl.takeOwnDone_holdLimit (q : PortCtl) : q.takeOwnDone.1.holdLimit = q.holdLimit := by
  unfold takeOwnDone
  split <;> simp

theorem PortCtl.takeRestartDone_holdLimit (q : PortCtl) : q.takeRestartDone.1.holdLimit = q.holdLimit := by
  unfold takeRestartDone
  split <;> simp

theorem okResult_ok : resultOk okResult := Nat.zero_le 30

/-! ### What an event answers -/

/-- State `t`, reached from `s`, keeps the queue and every soundness condition. -/
structure Follows (s t : State) : Prop extends Keeps s t where
  queue : t.pending = s.pending

/-- An event in state `s` answers a next state, which keeps the queue and every soundness condition. -/
def Answered (s : State) (r : StepResult) : Prop := ∃ t, r = .next t ∧ Follows s t

theorem Follows.trans {s t u : State} (a : Follows s t) (b : Follows t u) : Follows s u :=
  ⟨a.toKeeps.trans b.toKeeps, b.queue.trans a.queue⟩

theorem answered {s t : State} (k : Keeps s t) (q : t.pending = s.pending) : Answered s (.next t) := ⟨t, rfl, k, q⟩

theorem answered_unchanged (s : State) : Answered s (.next s) := answered (Keeps.refl s) rfl

/-- An event of one port that neither reads nor sets its hold limit. -/
theorem answered_onPort {s : State} {p : Port} {f : PortCtl → PortCtl} (ok : PortOk (s.port p) → PortOk (f (s.port p)))
    (limit : (f (s.port p)).holdLimit = (s.port p).holdLimit) : Answered s (.next (s.onPort p f)) :=
  answered (keeps_setPort s p ok limit) rfl

theorem answered_onPortMiss {s : State} {p : Port} {r : PortCtl × Bool} (ok : PortOk (s.port p) → PortOk r.1)
    (limit : r.1.holdLimit = (s.port p).holdLimit) : Answered s (.next (s.onPortMiss p r)) :=
  answered (keeps_onPortMiss s p ok limit) (State.onPortMiss_pending s p r)

theorem answered_takeMessage {s : State} {p : Port} {g : SegIx} {f : PortMsg → PortCtl → Option PortCtl}
    (taken : ∀ m q r, f m q = some r → (PortOk q → PortOk r) ∧ r.holdLimit = q.holdLimit) :
    Answered s (.next (s.takeMessage p g f)) :=
  answered (keeps_takeMessage s p g taken) (State.takeMessage_pending s p g f)

theorem answered_onSegment {s : State} {g : SegIx} {r : SegStep} (ok : SegmentOk (s.seg g) → SegmentOk r.seg)
    (config : r.seg.config = (s.seg g).config) : Answered s (.next (s.onSegment g r)) :=
  answered (keeps_onSegment s g ok (congrArg SegConfig.timeout config)) (State.onSegment_pending s g r)

/-- A message of a port taken at a segment (R103). -/
theorem answered_segMsg {s : State} {p : Port} {g : SegIx} {r : SegStep} (ok : SegmentOk (s.seg g) → SegmentOk r.seg)
    (config : r.seg.config = (s.seg g).config) : Answered s (.next ((s.dropSegMsg p).onSegment g r)) :=
  answered ((keeps_dropSegMsg s p).trans (keeps_onSegment _ g ok (congrArg SegConfig.timeout config)))
    (State.onSegment_pending _ g r)

theorem answered_finish {s : State} {p : Port} {t : ReplyTime} {r : State × Result} (k : Keeps s r.1)
    (q : r.1.pending = s.pending) (ok : resultOk r.2) : Answered s (finish p t r) :=
  answered (k.trans (keeps_reply r.1 p t ok)) ((State.reply_pending r.1 p t r.2).trans q)

/-! ### Upstream events -/

section

variable (s : State) (p : Port) (g : SegIx) (t : ReplyTime)

theorem answered_deviceReset (straps : BitVec 2) : Answered s (execDeviceReset straps s) :=
  answered
    { notices := fun _ => noticesOk_congr (noticesOk_resetWith straps) rfl rfl rfl
      segments := fun _ => segmentsOk_congr rfl (segmentsOk_resetWith straps)
      ports := fun _ => portsOk_congr (portsOk_resetWith straps) rfl
      table := fun _ => tableOk_congr (tableOk_resetWith straps) rfl rfl
      settings := fun _ => settingsOk_congr (settingsOk_resetWith straps) rfl (fun _ => rfl) fun _ => rfl } rfl

theorem answered_holdExpiry : Answered s (execHoldExpiry p s) := by
  unfold execHoldExpiry
  split
  next t hold =>
    have expired : Keeps (s.advanceTo t) ((s.advanceTo t).onPort p PortCtl.takeHoldExpiry) :=
      keeps_setPort _ p (fun h => PortCtl.takeHoldExpiry_ok h (by simp [hold])) (PortCtl.takeHoldExpiry_holdLimit _)
    exact answered (((keeps_advanceTo s t).trans expired).trans (keeps_raise _ _)) rfl
  next => exact answered_unchanged s

/-! ### Events at the table manager -/

theorem answered_lookup : Answered s (execLookup p s) := by
  unfold execLookup
  split
  · exact answered (keeps_takeLookup s p _) (State.takeLookup_pending s p _)
  · exact answered_unchanged s

theorem answered_prefixTest : Answered s (execPrefixTest p s) := by
  unfold execPrefixTest
  split
  · exact answered (keeps_takePrefixTest s p _) (State.takePrefixTest_pending s p _)
  · exact answered_unchanged s

theorem answered_unbind : Answered s (execUnbind p s) := by
  unfold execUnbind
  split
  next k gen _ _ =>
    exact answered (((keeps_unbound s k gen).trans (keeps_dropTableMsg _ p)).trans (keeps_raiseIf _ _ _)) (by simp; rfl)
  next => exact answered_unchanged s

theorem answered_acceptanceReport : Answered s (execAcceptanceReport p s) := by
  unfold execAcceptanceReport
  split
  next k gen _ _ =>
    exact answered ((keeps_setSlot s k (fun h => Slot.accepted_ok h gen s.now) (Slot.accepted_kept _ gen s.now)).trans
      (keeps_dropTableMsg _ p)) rfl
  next => exact answered_unchanged s

theorem answered_refusalReport : Answered s (execRefusalReport p s) := by
  unfold execRefusalReport
  split
  next k gen _ _ =>
    exact answered (((keeps_setSlot s k (fun h => Slot.refused_ok h gen) (Slot.refused_kept _ gen)).trans
      (keeps_dropTableMsg _ p)).trans (keeps_raiseIf _ _ _)) (by simp; rfl)
  next => exact answered_unchanged s

theorem answered_leaseExpiry (k : SlotIx) : Answered s (execLeaseExpiry k s) := by
  unfold execLeaseExpiry
  split
  next t lease =>
    split
    · have freed : Keeps (s.advanceTo t) ((s.advanceTo t).setSlot k (s.slot k).freed) :=
        Keeps.ofTable (fun h => tableOk_expired h k lease) ⟨_, _, _, rfl⟩
      exact answered (((keeps_advanceTo s t).trans freed).trans (keeps_raise _ _)) rfl
    · exact answered_unchanged s
  all_goals exact answered_unchanged s

theorem answered_idleExpiry : Answered s (execIdleExpiry s) := by
  unfold execIdleExpiry
  split
  · exact answered (((keeps_advanceTo s _).trans (keeps_abandonChangeSet _)).trans (keeps_raise _ _)) rfl
  all_goals exact answered_unchanged s

/-! ### Outcomes, grants and results at a port -/

theorem answered_lookupOutcome : Answered s (execLookupOutcome p s) := by
  unfold execLookupOutcome
  split
  · exact answered_onPort (fun h => PortCtl.takeLookupOutcome_ok (PortCtl.ok_messages h _ _ _ _ _ _) _ _)
      (PortCtl.takeLookupOutcome_holdLimit _ _ _)
  · exact answered_unchanged s

theorem answered_prefixOutcome : Answered s (execPrefixOutcome p s) := by
  unfold execPrefixOutcome
  split
  · exact answered_onPort (fun h => PortCtl.takePrefixOutcome_ok (PortCtl.ok_messages h _ _ _ _ _ _) _)
      (PortCtl.takePrefixOutcome_holdLimit _ _)
  · exact answered_unchanged s

theorem answered_grantTaken : Answered s (execGrantTaken p g s) :=
  answered_takeMessage fun m q r taken => by
    split at taken <;> cases taken
    exact ⟨fun h => PortCtl.takeGrant_ok h g _, PortCtl.takeGrant_holdLimit q g _⟩

theorem answered_refusalTaken : Answered s (execRefusalTaken p g s) :=
  answered_takeMessage fun m q r taken => by
    split at taken <;> cases taken
    exact ⟨fun h => PortCtl.takeRefusal_ok h g _, PortCtl.takeRefusal_holdLimit q g _⟩

theorem answered_addressAck : Answered s (execAddressAck p g s) :=
  answered_takeMessage fun m q r taken => by
    split at taken <;> cases taken
    exact ⟨fun h => PortCtl.takeAddressAck_ok h g, PortCtl.takeAddressAck_holdLimit q g⟩

theorem answered_addressNack : Answered s (execAddressNack p g s) :=
  answered_takeMessage fun m q r taken => by
    split at taken <;> cases taken
    exact ⟨fun h => PortCtl.takeAddressNack_ok h g, PortCtl.takeAddressNack_holdLimit q g⟩

theorem answered_writeByteResult : Answered s (execWriteByteResult p g s) :=
  answered_takeMessage fun m q r taken => by
    split at taken <;> cases taken
    exact ⟨fun h => PortCtl.takeWriteResult_ok h g _, PortCtl.takeWriteResult_holdLimit q g _⟩

theorem answered_readByteResult : Answered s (execReadByteResult p g s) :=
  answered_takeMessage fun m q r taken => by
    split at taken <;> cases taken
    exact ⟨fun h => PortCtl.takeReadResult_ok h g _, PortCtl.takeReadResult_holdLimit q g _⟩

theorem answered_lost : Answered s (execLost p g s) :=
  answered_takeMessage fun m q r taken => by
    split at taken <;> cases taken
    exact ⟨fun h => PortCtl.takeEnding_ok h g, PortCtl.takeEnding_holdLimit q g⟩

theorem answered_fault : Answered s (execFault p g s) :=
  answered_takeMessage fun m q r taken => by
    split at taken <;> cases taken
    exact ⟨fun h => PortCtl.takeEnding_ok h g, PortCtl.takeEnding_holdLimit q g⟩

theorem answered_cancelled : Answered s (execCancelled p g s) :=
  answered_takeMessage fun m q r taken => by
    split at taken <;> cases taken
    exact ⟨fun h => PortCtl.takeEnding_ok h g, PortCtl.takeEnding_holdLimit q g⟩

theorem answered_ackBitDone : Answered s (execAckBitDone p g s) :=
  answered_takeMessage fun m q r taken => by
    split at taken <;> cases taken
    exact ⟨id, rfl⟩

/-! ### Events at a segment -/

theorem answered_segmentRequest : Answered s (execSegmentRequest p s) := by
  unfold execSegmentRequest
  split
  · exact answered_segMsg (fun h => Segment.takeRequest_ok h p _) (Segment.takeRequest_config _ p _)
  · exact answered_unchanged s

theorem answered_withdrawal : Answered s (execWithdrawal p s) := by
  unfold execWithdrawal
  split
  · exact answered_segMsg (fun h => Segment.takeWithdrawal_ok h p) (Segment.takeWithdrawal_config _ p)
  · exact answered_unchanged s

theorem answered_release : Answered s (execRelease p s) := by
  unfold execRelease
  split
  · exact answered_segMsg (fun h => Segment.takeRelease_ok h p) (Segment.takeRelease_config _ p)
  · exact answered_unchanged s

theorem answered_ask : Answered s (execAsk p s) := by
  unfold execAsk
  split
  · exact answered_segMsg (fun h => Segment.takeAsk_ok h p _) (Segment.takeAsk_config _ p _)
  · exact answered_unchanged s

theorem answered_startCondition : Answered s (execStartCondition g s) := by
  unfold execStartCondition
  split
  next waiting _ =>
    have made : ∀ u : State, u.seg g = s.seg g → u.pending = s.pending → Keeps s u →
        Answered s (.next (u.onSegment g { seg := (s.seg g).makeStart })) := fun u e q k =>
      answered (k.trans (keeps_onSegment u g (fun h => Segment.makeStart_ok (e ▸ h) waiting) (by simp [e])))
        ((State.onSegment_pending u g _).trans q)
    split
    · exact made _ rfl rfl (keeps_advanceTo s _)
    · exact made s rfl rfl (Keeps.refl s)
  next => exact answered_onSegment Segment.comeToRestart_ok (Segment.comeToRestart_config _)
  next toRestart _ =>
    exact answered_onSegment (fun h => Segment.tenBitRestart_ok h (h.inner (.inl toRestart)) [])
      (Segment.tenBitRestart_config _ [])
  all_goals exact answered_unchanged s

theorem answered_clockLowExpiry : Answered s (execClockLowExpiry g s) := by
  unfold execClockLowExpiry
  split
  · exact answered ((keeps_advanceTo s _).trans (keeps_onSegment _ g (fun h => Segment.clockLowExpiry_ok h g)
      (congrArg SegConfig.timeout (Segment.clockLowExpiry_config _ g)))) (State.onSegment_pending _ g _)
  · exact answered_unchanged s

/-! ### The interpreter -/

theorem answered_handOver : Answered s (execHandOver p s) := by
  unfold execHandOver
  split
  · exact answered (keeps_takeFrame s p _) (State.takeFrame_pending s p _)
  · exact answered_unchanged s

theorem answered_executionComplete (issuer : Port) : Answered s (execExecutionComplete p issuer s) := by
  unfold execExecutionComplete
  split
  · have taken := keeps_onPortMiss (s.writeWaiting p) p (r := ((s.writeWaiting p).port p).takeOwnDone)
      PortCtl.takeOwnDone_ok (PortCtl.takeOwnDone_holdLimit _)
    exact answered ((keeps_writeWaiting s p).trans taken) (by simp)
  · exact answered_onPortMiss PortCtl.takeRestartDone_ok (PortCtl.takeRestartDone_holdLimit _)

theorem answered_restart (straps : BitVec 2) (whole : Bool) : Answered s (execRestart p straps whole s) := by
  have one : ∀ u, Follows s u → Follows s (u.restartStep p straps) := fun u h =>
    h.trans ⟨keeps_restartStep u p straps, State.restartStep_pending u p straps⟩
  have here : Follows s s := ⟨Keeps.refl s, rfl⟩
  unfold execRestart
  cases whole
  · exact ⟨_, rfl, one s here⟩
  · exact ⟨_, rfl, State.restartWhole_induct (P := Follows s) one here⟩

/-! ### Commands passed on -/

theorem answered_stage : Answered s (execStage p t s) := by
  unfold execStage
  split
  · exact answered_finish (keeps_takeStage s p _ _) (State.takeStage_tableOnly s p _ _).pending (takeStage_result s p _ _)
  · exact answered_unchanged s

theorem answered_unstage : Answered s (execUnstage p t s) := by
  unfold execUnstage
  split
  · exact answered_finish (keeps_takeUnstage s p _) (State.takeUnstage_tableOnly s p _).pending (takeUnstage_result s p _)
  · exact answered_unchanged s

theorem answered_mark : Answered s (execMark p t s) := by
  unfold execMark
  split
  · exact answered_finish (keeps_takeMark s p _ _) (State.takeMark_tableOnly s p _ _).pending (takeMark_result s p _ _)
  · exact answered_unchanged s

theorem answered_unmark : Answered s (execUnmark p t s) := by
  unfold execUnmark
  split
  · exact answered_finish (keeps_takeUnmark s p _ _) (State.takeUnmark_tableOnly s p _ _).pending (takeUnmark_result s p _ _)
  · exact answered_unchanged s

theorem answered_commit : Answered s (execCommit p t s) := by
  unfold execCommit
  split
  · exact answered_finish (keeps_takeCommit s p) (State.takeCommit_tableOnly s p).pending (takeCommit_result s p)
  · exact answered_unchanged s

theorem answered_abandon : Answered s (execAbandon p t s) := by
  unfold execAbandon
  split
  · exact answered_finish (keeps_takeAbandon s p) (State.takeAbandon_tableOnly s p).pending (takeAbandon_result s p)
  · exact answered_unchanged s

theorem answered_renew : Answered s (execRenew p t s) := by
  unfold execRenew
  split
  · exact answered_finish (keeps_takeRenew s _ _) (State.takeRenew_tableOnly s _ _).pending (takeRenew_result s _ _)
  · exact answered_unchanged s

theorem answered_revive : Answered s (execRevive p t s) := by
  unfold execRevive
  split
  · exact answered_finish (keeps_takeRevive s _ _) (State.takeRevive_tableOnly s _ _).pending (takeRevive_result s _ _)
  · exact answered_unchanged s

theorem answered_readRecord : Answered s (execReadRecord p t s) := by
  unfold execReadRecord
  split
  · exact answered_finish (Keeps.refl s) rfl (by simp [resultOk, recordPayload_length])
  · exact answered_unchanged s

theorem answered_probe : Answered s (execProbe p t s) := by
  unfold execProbe
  split
  · exact answered_finish (Keeps.refl s) rfl (by simp [resultOk, probePayload_length])
  · exact answered_unchanged s

theorem answered_readStatus : Answered s (execReadStatus p t s) := by
  unfold execReadStatus
  split
  · exact answered_finish (Keeps.refl s) rfl (by simp [resultOk, statusItems_length])
  · exact answered_unchanged s

theorem answered_readSegment : Answered s (execReadSegment p t s) := by
  unfold execReadSegment
  split
  · exact answered_finish (Keeps.refl s) rfl (by simp [resultOk, segmentPayload_length])
  · exact answered_unchanged s

theorem answered_readNotices : Answered s (execReadNotices p t s) := by
  unfold execReadNotices
  split
  · exact answered_finish (Keeps.refl s) rfl (by simp [resultOk, noticesPayload_length])
  · exact answered_unchanged s

theorem answered_segmentConfig : Answered s (execSegmentConfig p t s) := by
  unfold execSegmentConfig
  split
  next g c passed =>
    exact answered_finish (keeps_takeSegmentConfig s g fun k => passedCommand_ok k passed)
      (State.takeSegmentConfig_pending s g c) (takeSegmentConfig_result s g c)
  next => exact answered_unchanged s

/-- An action at a segment, answered OK (R189). -/
theorem answered_action {g : SegIx} {r : SegStep} (ok : SegmentOk (s.seg g) → SegmentOk r.seg)
    (config : r.seg.config = (s.seg g).config) : Answered s (finish p t (s.onSegment g r, okResult)) :=
  answered_finish (keeps_onSegment s g ok (congrArg SegConfig.timeout config)) (State.onSegment_pending s g r)
    okResult_ok

theorem answered_enable : Answered s (execEnable p t s) := by
  unfold execEnable
  split
  · exact answered_action s p t Segment.takeEnable_ok (Segment.takeEnable_config _)
  · exact answered_unchanged s

theorem answered_disable : Answered s (execDisable p t s) := by
  unfold execDisable
  split
  · exact answered_action s p t Segment.takeDisable_ok (Segment.takeDisable_config _)
  · exact answered_unchanged s

theorem answered_recover : Answered s (execRecover p t s) := by
  unfold execRecover
  split
  · exact answered_action s p t Segment.takeRecover_ok (Segment.takeRecover_config _)
  · exact answered_unchanged s

theorem answered_portConfig : Answered s (execPortConfig p t s) := by
  unfold execPortConfig
  split
  next port limit passed =>
    exact answered_finish (keeps_holdLimit s port fun k => passedCommand_ok k passed) rfl okResult_ok
  next => exact answered_unchanged s

theorem answered_globalConfig : Answered s (execGlobalConfig p t s) := by
  unfold execGlobalConfig
  split
  · exact answered_finish (keeps_globalConfig s _ _) rfl okResult_ok
  · exact answered_unchanged s

theorem answered_clearNotices : Answered s (execClearNotices p t s) := by
  unfold execClearNotices
  split
  · exact answered_finish (keeps_clearKinds s _) rfl okResult_ok
  · exact answered_unchanged s

end

end Sys2Proof.Machine
end

section
/-! What every step keeps of the notices, the segments, the ports, the table and the settings, and what a step is. -/

namespace Sys2Proof.Machine

/-- Every command answers a next state, with the queue as it was, sound in each way in which the state before was (log 23). -/
theorem answered_exec (c : Instr) (s : State) : Answered s (exec c s) := by
  cases c with
  | deviceReset straps => exact answered_deviceReset s straps
  | upstreamStart p => exact answered_onPort PortCtl.takeStartCondition_ok (PortCtl.takeStartCondition_holdLimit _)
  | upstreamStop p => exact answered_onPort PortCtl.takeStop_ok (PortCtl.takeStop_holdLimit _)
  | upstreamRestart p => exact answered_onPort PortCtl.takeStartCondition_ok (PortCtl.takeStartCondition_holdLimit _)
  | addressByte p a d =>
    exact answered_onPortMiss (fun h => PortCtl.takeFirstByte_ok h _ _) (PortCtl.takeFirstByte_holdLimit _ _ _)
  | prefixWrite p h =>
    exact answered_onPortMiss (fun h => PortCtl.takeFirstByte_ok h _ _) (PortCtl.takeFirstByte_holdLimit _ _ _)
  | prefixRead p h =>
    exact answered_onPortMiss (fun h => PortCtl.takeFirstByte_ok h _ _) (PortCtl.takeFirstByte_holdLimit _ _ _)
  | lowByte p b =>
    exact answered_onPortMiss (fun h => PortCtl.takeLowByte_ok h _ _) (PortCtl.takeLowByte_holdLimit _ _ _)
  | lookup p => exact answered_lookup s p
  | prefixTest p => exact answered_prefixTest s p
  | lookupOutcome p => exact answered_lookupOutcome s p
  | prefixOutcome p => exact answered_prefixOutcome s p
  | unbind p => exact answered_unbind s p
  | acceptanceReport p => exact answered_acceptanceReport s p
  | refusalReport p => exact answered_refusalReport s p
  | leaseExpiry k => exact answered_leaseExpiry s k
  | idleExpiry => exact answered_idleExpiry s
  | holdExpiry p => exact answered_holdExpiry s p
  | commandByte p b => exact answered_onPort (fun h => PortCtl.takeCommandByte_ok h b) (PortCtl.takeCommandByte_holdLimit _ b)
  | responseByte p =>
    exact answered_onPort (fun h => PortCtl.takeResponseByte_ok h _) (PortCtl.takeResponseByte_holdLimit _ _)
  | writeDataByte p b => exact answered_onPort (fun h => PortCtl.takeWriteByte_ok h _ b) (PortCtl.takeWriteByte_holdLimit _ _ b)
  | readDataByte p => exact answered_onPort (fun h => PortCtl.takeReadClock_ok h _) (PortCtl.takeReadClock_holdLimit _ _)
  | hostAcknowledge p ack => exact answered_onPort (fun h => PortCtl.takeHostAck_ok h ack) (PortCtl.takeHostAck_holdLimit _ ack)
  | absorbByte p d => exact answered_onPort (fun h => PortCtl.takeAbsorbByte_ok h d) (PortCtl.takeAbsorbByte_holdLimit _ d)
  | endingByte p => exact answered_onPort PortCtl.takeEndingByte_ok (PortCtl.takeEndingByte_holdLimit _)
  | grantTaken p g => exact answered_grantTaken s p g
  | refusalTaken p g => exact answered_refusalTaken s p g
  | addressAck p g => exact answered_addressAck s p g
  | addressNack p g => exact answered_addressNack s p g
  | writeByteResult p g => exact answered_writeByteResult s p g
  | readByteResult p g => exact answered_readByteResult s p g
  | ackBitDone p g => exact answered_ackBitDone s p g
  | lost p g => exact answered_lost s p g
  | fault p g => exact answered_fault s p g
  | cancelled p g => exact answered_cancelled s p g
  | segmentRequest p => exact answered_segmentRequest s p
  | withdrawal p => exact answered_withdrawal s p
  | release p => exact answered_release s p
  | ask p => exact answered_ask s p
  | startCondition g => exact answered_startCondition s g
  | addressEnd g acks => exact answered_onSegment (fun h => Segment.addressEnd_ok h acks) (Segment.addressEnd_config _ acks)
  | writeByteEnd g ack => exact answered_onSegment (fun h => Segment.writeByteEnd_ok h ack) (Segment.writeByteEnd_config _ ack)
  | readByteEnd g b => exact answered_onSegment (fun h => Segment.readByteEnd_ok h b) (Segment.readByteEnd_config _ b)
  | ackBitEnd g => exact answered_onSegment Segment.ackBitEnd_ok (Segment.ackBitEnd_config _)
  | stopEnd g => exact answered_onSegment (fun h => Segment.stopEnd_ok h _) (Segment.stopEnd_config _ _)
  | arbitrationLossAddress g =>
    exact answered_onSegment (fun h => Segment.arbitrationLossAddress_ok h _) (Segment.arbitrationLossAddress_config _ _)
  | arbitrationLoss g =>
    exact answered_onSegment (fun h => Segment.arbitrationLoss_ok h _) (Segment.arbitrationLoss_config _ _)
  | clockLowExpiry g => exact answered_clockLowExpiry s g
  | clearCheck g dscl dsda =>
    exact answered_onSegment (fun h => Segment.clearCheck_ok h g _ dscl dsda) (Segment.clearCheck_config _ g _ dscl dsda)
  | handOver p => exact answered_handOver s p
  | executionComplete p issuer => exact answered_executionComplete s p issuer
  | stage p t => exact answered_stage s p t
  | unstage p t => exact answered_unstage s p t
  | mark p t => exact answered_mark s p t
  | unmark p t => exact answered_unmark s p t
  | commit p t => exact answered_commit s p t
  | abandon p t => exact answered_abandon s p t
  | renew p t => exact answered_renew s p t
  | revive p t => exact answered_revive s p t
  | readRecord p t => exact answered_readRecord s p t
  | probe p t => exact answered_probe s p t
  | readStatus p t => exact answered_readStatus s p t
  | readSegment p t => exact answered_readSegment s p t
  | readNotices p t => exact answered_readNotices s p t
  | segmentConfig p t => exact answered_segmentConfig s p t
  | enable p t => exact answered_enable s p t
  | disable p t => exact answered_disable s p t
  | recover p t => exact answered_recover s p t
  | portConfig p t => exact answered_portConfig s p t
  | globalConfig p t => exact answered_globalConfig s p t
  | clearNotices p t => exact answered_clearNotices s p t
  | restart p straps whole => exact answered_restart s p straps whole

/-- Settles O2, by the case of each command. -/
theorem everyCommandAnswersANextState : Obligations.EveryCommandAnswersANextState := fun c s => by
  obtain ⟨t, answers, follows⟩ := answered_exec c s
  exact ⟨t, answers, follows.queue⟩

/-! ### A step -/

theorem step_of_empty {s : State} (empty : s.pending = []) : step s = .next s.tick := by rw [step, empty]

theorem step_of_front {s : State} {c : Instr} {rest : List Instr} (front : s.pending = c :: rest) :
    step s = exec c { s with pending := rest } := by rw [step, front]

/-- No soundness condition reads the queue of commands. -/
theorem keeps_pending (s : State) (l : List Instr) : Keeps s { s with pending := l } :=
  Keeps.quiet (fun h => noticesOk_congr h rfl rfl rfl) rfl rfl rfl rfl rfl

/-- A step keeps the state sound: one period does, and so does the command at the front of the queue. -/
theorem keeps_step {s t : State} (h : step s = .next t) : Keeps s t := by
  cases queue : s.pending with
  | nil =>
    obtain rfl : s.tick = t := by simpa [step_of_empty queue] using h
    exact keeps_tick s
  | cons c rest =>
    obtain ⟨u, answers, follows⟩ := answered_exec c { s with pending := rest }
    obtain rfl : u = t := by simpa [step_of_front queue, answers] using h
    exact (keeps_pending s rest).trans follows.toKeeps

/-- Settles O53, by the soundness that every step keeps. -/
theorem everyStepKeepsTheNoticesSound : Obligations.EveryStepKeepsTheNoticesSound := fun _ _ sound h =>
  (keeps_step h).notices sound

/-- Settles O54, by the soundness that every step keeps. -/
theorem everyStepKeepsTheSegmentsSound : Obligations.EveryStepKeepsTheSegmentsSound := fun _ _ sound h =>
  (keeps_step h).segments sound

/-- Settles O55, by the soundness that every step keeps. -/
theorem everyStepKeepsThePortsSound : Obligations.EveryStepKeepsThePortsSound := fun _ _ sound h =>
  (keeps_step h).ports sound

/-- Settles O56, by the soundness that every step keeps. -/
theorem everyStepKeepsTheTableAndSettingsSound : Obligations.EveryStepKeepsTheTableAndSettingsSound :=
  ⟨fun _ _ sound h => (keeps_step h).table sound, fun _ _ sound h => (keeps_step h).settings sound⟩

/-! ### The clock-low timer and the lines (R113, R119) -/

/-- The model's condition of the clock-low timer, as the rules word it (R119; log 12). -/
theorem Segment.lineHeldLow_iff (x : Segment) : x.lineHeldLow = true ↔ lineLow x := by
  have runs : x.timerCanRun = true ↔ x.state ∈ [SegState.clearing, .idle, .releasing, .closing] ∨
      (x.state = .owned ∧ (x.position = .none ∨ x.stage ≠ .none)) := by
    cases hs : x.state <;> simp [timerCanRun, hs]
  have waits : x.waitsToStart = true ↔ x.stage ∈ [Stage.waiting, .toRestart] := by simp [waitsToStart]
  rw [lineHeldLow, Bool.and_eq_true, Bool.or_eq_true, Bool.and_eq_true, runs, waits]

theorem Segment.timed_eq_clocked (x : Segment) (now : Nat) : x.timed now = clocked now x := by
  simp only [timed, clocked, x.lineHeldLow_iff]

theorem Segment.linesHigh_eq_false_iff (x : Segment) : x.linesHigh = false ↔ x.dsclLow = true ∨ x.dsdaLow = true := by
  cases hc : x.dsclLow <;> cases hd : x.dsdaLow <;> simp [linesHigh, hc, hd]

theorem Segment.sampleLines_eq (x : Segment) (now : Nat) (scl sda : Bool) :
    x.sampleLines now scl sda = clocked now { x with
      dsclLow := scl, dsdaLow := sda,
      freeSince :=
        if x.config.mode = .shared ∧ (scl = true ∨ sda = true ∨ x.dsclLow = true ∨ x.dsdaLow = true) then now
        else x.freeSince } := by
  rw [sampleLines, timed_eq_clocked]
  simp [← x.linesHigh_eq_false_iff, or_assoc]

theorem State.seg_tick (s : State) (g : SegIx) :
    s.tick.seg g = (s.seg g).sampleLines (s.now + 1) (Config.dsclPulledLow (s.now + 1) g.val)
      (Config.dsdaPulledLow (s.now + 1) g.val) := by
  simp [tick, seg, Vector.get_eq_getElem]

/-- Settles O1: the step at a queue's front by definition, one period by what a sample of the lines does. -/
theorem stepTakesTheFrontCommandOrAPeriod : Obligations.StepTakesTheFrontCommandOrAPeriod := by
  refine ⟨fun c rest s => step_of_front rfl, fun s empty => ⟨s.tick, step_of_empty empty, rfl, fun g => ?_⟩⟩
  exact ⟨_, _, (State.seg_tick s g).trans (Segment.sampleLines_eq _ _ _ _)⟩

end Sys2Proof.Machine
end

section
/-! What every event at a port controller keeps of its bindings, messages under way counted (R19, R22, R23). -/

namespace Sys2Proof.Machine

/-- Controller `r`, reached from `q`, keeps the bindings sound and counts on the same slots, messages under way counted. -/
def PortCtl.Counted (q r : PortCtl) : Prop := BindingOk q → BindingOk r ∧ r.claims.Perm q.claims

/-- The fields that the bindings are read from are the same in `q` and `r`. -/
structure PortCtl.SameBindings (q r : PortCtl) : Prop where
  bound : r.bound = q.bound
  toTable : r.toTable = q.toTable
  fromTable : r.fromTable = q.fromTable
  stale : r.stale = q.stale
  awaiting : r.awaiting = q.awaiting

namespace PortCtl

variable {q r : PortCtl}

theorem SameBindings.counted (h : q.SameBindings r) : q.Counted r := fun ok =>
  ⟨ok.congr_fields h.bound h.toTable h.fromTable h.stale h.awaiting, by rw [claims_congr h.bound h.toTable h.fromTable]⟩

theorem Counted.refl (q : PortCtl) : q.Counted q := fun ok => ⟨ok, .refl _⟩

theorem Counted.trans {u : PortCtl} (a : q.Counted r) (b : r.Counted u) : q.Counted u := fun ok =>
  ⟨(b (a ok).1).1, (b (a ok).1).2.trans (a ok).2⟩

/-- A change of the other fields alone after a counted one. -/
theorem Counted.then {u : PortCtl} (a : q.Counted r) (b : r.SameBindings u) : q.Counted u := a.trans b.counted

/-! ### The operations on the context -/

theorem giveUpBinding_counted (q : PortCtl) : q.Counted q.giveUpBinding := fun ok => ⟨ok.giveUpBinding, q.claims_giveUpBinding⟩

/-- A message that neither unbinds, nor asks for an outcome, is no matter of the bindings (R80). -/
theorem sendTable_counted (q : PortCtl) {m : TableMsg} (unbinds : m.unbinds = none) (answered : m.isAnswered = false) :
    q.Counted (q.sendTable m) := fun ok => by
  have claims := claims_sendTable q unbinds
  refine ⟨⟨?_, ?_, ?_, ?_⟩, by rw [claims]⟩
  · rw [claims]; exact ok.single
  · have appended : (q.sendTable m).toTable.countP TableMsg.isAnswered = q.toTable.countP TableMsg.isAnswered := by
      simp [answered]
    exact (congrArg (· + q.fromTable.length) appended).trans ok.answers
  · intro isBound x hx
    rcases List.mem_append.mp hx with old | new
    · exact ok.settled isBound x old
    · obtain rfl := List.mem_singleton.mp new
      cases x <;> simp_all [TableMsg.isAnswered, TableMsg.isLookup]
  · exact appended_order ok.order unbinds
where
  /-- An appended message that unbinds nothing keeps every unbind ahead of the lookups. -/
  appended_order {l : List TableMsg} {m : TableMsg}
      (order : ∀ before a after, l = before ++ .lookup a :: after → ∀ m ∈ after, m.unbinds = none)
      (unbinds : m.unbinds = none) :
      ∀ before a after, l ++ [m] = before ++ .lookup a :: after → ∀ m ∈ after, m.unbinds = none := by
    intro before a after split x hx
    rcases List.eq_nil_or_concat after with rfl | ⟨after', y, rfl⟩
    · simp at hx
    · rw [List.concat_eq_append, ← List.cons_append, ← List.append_assoc] at split
      obtain ⟨front, rfl⟩ := List.append_singleton_inj.mp split
      rcases List.mem_append.mp (List.concat_eq_append ▸ hx) with old | new
      · exact order before a after' front x old
      · rw [List.mem_singleton.mp new]; exact unbinds

/-- An outcome under way that is no longer awaited is still one of the answers (R50). -/
theorem stopAwaiting_counted (q : PortCtl) : q.Counted q.stopAwaiting := fun ok => by
  unfold stopAwaiting
  split
  next awaiting =>
    refine ⟨⟨ok.single, ?_, ok.settled, ok.order⟩, .refl _⟩
    simpa [awaiting] using ok.answers
  next => exact ⟨ok, .refl _⟩

/-- The test of a high part is presented with a carried binding still recorded (R58). -/
theorem judgePrefixWrite_counted (idle : q.awaiting = false) (b : Byte) : q.Counted (q.judgePrefixWrite b) := fun ok => by
  have claims : (q.judgePrefixWrite b).claims = q.claims := claims_sendTable q (TableMsg.unbinds_prefixTest _)
  refine ⟨⟨?_, ?_, ?_, sendTable_counted.appended_order ok.order rfl⟩, by rw [claims]⟩
  · rw [claims]; exact ok.single
  · have answers := ok.answers
    simp only [idle, Bool.false_eq_true, if_false] at answers
    simp [judgePrefixWrite, TableMsg.isAnswered]
    omega
  · intro isBound x hx
    rcases List.mem_append.mp hx with old | new
    · exact ok.settled isBound x old
    · rw [List.mem_singleton.mp new]; rfl

theorem presentLookup_counted (unbound : q.bound = none) (idle : q.awaiting = false) (a : Query) :
    q.Counted (q.presentLookup a) := fun ok =>
  ⟨ok.presentLookup unbound idle a, by
    rw [show (q.presentLookup a).claims = q.claims from claims_sendTable q (TableMsg.unbinds_lookup a)]⟩

theorem releaseSegment_same (q : PortCtl) : q.SameBindings q.releaseSegment := ⟨by simp, by simp, by simp, by simp, by simp⟩

theorem askAddress_same (q : PortCtl) (w : Width) (a : Addr) (d : Direction) : q.SameBindings (q.askAddress w a d) :=
  ⟨by simp [askAddress], by simp [askAddress], by simp [askAddress], by simp [askAddress], by simp [askAddress]⟩

theorem refuseAddress_same (q : PortCtl) : q.SameBindings q.refuseAddress := ⟨rfl, rfl, rfl, rfl, rfl⟩

theorem requestSegment_same (q : PortCtl) (g : SegIx) : q.SameBindings (q.requestSegment g) := ⟨rfl, rfl, rfl, rfl, rfl⟩

theorem endHoldOwnAnswer_same (q : PortCtl) : q.SameBindings q.endHoldOwnAnswer := by
  unfold endHoldOwnAnswer; split <;> exact ⟨rfl, rfl, rfl, rfl, rfl⟩

theorem refuseCarried_counted (q : PortCtl) : q.Counted q.refuseCarried :=
  (q.releaseSegment_same.counted.trans (giveUpBinding_counted _)).then (refuseAddress_same _)

theorem absorb_counted (q : PortCtl) : q.Counted q.absorb :=
  (q.releaseSegment_same.counted.trans (giveUpBinding_counted _)).then ⟨rfl, rfl, rfl, rfl, rfl⟩

theorem frameEnd_counted (q : PortCtl) : q.Counted q.frameEnd :=
  (giveUpBinding_counted q).then ⟨by simp, by simp, by simp, by simp, by simp⟩

/-! ### Bus conditions and address bytes -/

theorem newAddressPhase_same (q : PortCtl) : q.SameBindings q.newAddressPhase := ⟨rfl, rfl, rfl, rfl, rfl⟩

theorem takeRestart_counted (q : PortCtl) : q.Counted q.takeRestart := by
  unfold takeRestart
  split
  case h_1 => exact q.frameEnd_counted.then (newAddressPhase_same _)
  all_goals exact q.newAddressPhase_same.counted

theorem takeStartCondition_counted (q : PortCtl) : q.Counted q.takeStartCondition := by
  unfold takeStartCondition
  split
  · exact .refl q
  · split
    case h_1 => exact SameBindings.counted ⟨rfl, rfl, rfl, rfl, rfl⟩
    all_goals exact q.takeRestart_counted

theorem giveUpAtStop_counted (q : PortCtl) : q.Counted q.giveUpAtStop := by
  unfold giveUpAtStop
  split
  case h_6 => exact q.frameEnd_counted
  case h_7 => exact q.giveUpBinding_counted
  case h_1 | h_2 | h_3 | h_4 | h_5 => exact q.releaseSegment_same.counted.trans (giveUpBinding_counted _)
  all_goals exact .refl q

theorem takeStop_counted (q : PortCtl) : q.Counted q.takeStop := by
  unfold takeStop
  split
  · exact .refl q
  · split
    · exact .refl q
    all_goals exact q.giveUpAtStop_counted.then ⟨rfl, rfl, rfl, rfl, rfl⟩

/-- A carried binding is given up before the lookup is presented (R49, R50, R59). -/
theorem lookupAfterGivingUp_counted (idle : q.awaiting = false) (d : Direction) (a : Query) :
    q.Counted (({ q.giveUpBinding with direction := some d } : PortCtl).presentLookup a) := by
  have directed : q.giveUpBinding.SameBindings { q.giveUpBinding with direction := some d } := ⟨rfl, rfl, rfl, rfl, rfl⟩
  refine ((giveUpBinding_counted q).then directed).trans ?_
  exact presentLookup_counted (q := { q.giveUpBinding with direction := some d }) q.giveUpBinding_bound
    (q.giveUpBinding_awaiting.trans idle) a

theorem judgePrefixRead_counted (q : PortCtl) (b : Byte) : q.Counted (q.judgePrefixRead b).1 := by
  have recorded : q.SameBindings { q with direction := some .read } := ⟨rfl, rfl, rfl, rfl, rfl⟩
  have refused := recorded.counted.trans (refuseCarried_counted { q with direction := some .read })
  unfold judgePrefixRead
  dsimp only
  split
  · split
    · split
      · split
        · split
          · exact recorded.counted.then (askAddress_same _ _ _ _)
          · exact recorded.counted.then (requestSegment_same _ _)
        · exact refused
      · exact refused
    · exact refused
  · exact refused

theorem judgeAddressByte_counted (idle : q.awaiting = false) (b : Byte) : q.Counted (q.judgeAddressByte b).1 := by
  unfold judgeAddressByte
  split
  · split
    · split
      · exact judgePrefixWrite_counted idle b
      · exact judgePrefixRead_counted q b
    · exact lookupAfterGivingUp_counted idle _ _
  · exact lookupAfterGivingUp_counted idle _ _
  all_goals exact .refl q

theorem takeAddressByte_counted (idle : q.awaiting = false) (now : Nat) (b : Byte) :
    q.Counted (q.takeAddressByte now b).1 := by
  have held : q.SameBindings (q.beginHold now) := ⟨rfl, rfl, rfl, rfl, rfl⟩
  unfold takeAddressByte
  dsimp only
  split
  · exact SameBindings.counted ⟨rfl, rfl, rfl, rfl, rfl⟩
  · exact held.counted.trans (judgeAddressByte_counted (q := q.beginHold now) idle b)

/-- In a sound context that receives an address byte nothing is awaited while SCL is not held. -/
theorem not_awaiting_of_free (h : PortOk q) (receives : q.phase.receivesAddress = true) (free : q.hold = none) :
    q.awaiting = false := by
  have judging := h.judging receives
  by_contra awaiting
  have : q.hold.isSome = true := judging.mpr (.inl (by simpa using awaiting))
  simp [free] at this

theorem takeFirstByte_counted (h : PortOk q) (now : Nat) (b : Byte) : q.Counted (q.takeFirstByte now b).1 := by
  unfold takeFirstByte
  split
  next c => exact takeAddressByte_counted (not_awaiting_of_free h (by rw [c.1]; rfl) c.2) now b
  next => exact .refl q

theorem takeLowByte_counted (h : PortOk q) (now : Nat) (b : Byte) : q.Counted (q.takeLowByte now b).1 := by
  unfold takeLowByte
  split
  next c => exact takeAddressByte_counted (not_awaiting_of_free h (by rw [c.1]; rfl) c.2) now b
  next => exact .refl q

theorem judgeHeld_counted (h : PortOk q) : q.Counted q.judgeHeld.1 := by
  unfold judgeHeld
  split
  next b held =>
    have idle : q.awaiting = false := h.unjudged (by simp [held])
    split
    · exact .refl q
    · have dropped : q.SameBindings { q with held := none } := ⟨rfl, rfl, rfl, rfl, rfl⟩
      exact dropped.counted.trans (judgeAddressByte_counted (q := { q with held := none }) idle b)
  next => exact .refl q

theorem takeOwnDone_counted (h : PortOk q) : q.Counted q.takeOwnDone.1 := by
  unfold takeOwnDone
  split
  · have cleared : q.SameBindings { q with ownWait := false, ownDone := false } := ⟨rfl, rfl, rfl, rfl, rfl⟩
    exact cleared.counted.trans (judgeHeld_counted (ok_waits h _ _ _ _ _))
  · exact .refl q

theorem takeRestartDone_counted (h : PortOk q) : q.Counted q.takeRestartDone.1 := by
  unfold takeRestartDone
  split
  · have cleared : q.SameBindings { q with restartWait := false, restartDone := false } := ⟨rfl, rfl, rfl, rfl, rfl⟩
    exact cleared.counted.trans (judgeHeld_counted (ok_waits h _ _ _ _ _))
  · exact .refl q

/-! ### Outcomes -/

/-- The awaited outcome is the last one: no other is under way, and no message that an outcome will answer (R50). -/
theorem last_outcome (ok : BindingOk q) {o : TableReply} {rest : List TableReply} (first : q.fromTable = o :: rest)
    (fresh : q.stale = 0) : rest = [] ∧ q.toTable.countP TableMsg.isAnswered = 0 := by
  have answers := ok.answers
  rw [first, fresh, List.length_cons] at answers
  have : (if q.awaiting = true then 1 else 0) ≤ 1 := by split <;> decide
  exact ⟨List.length_eq_zero_iff.mp (by omega), by omega⟩

theorem no_lookup_of_unanswered {l : List TableMsg} (h : l.countP TableMsg.isAnswered = 0) :
    ∀ m ∈ l, m.isLookup = false := by
  intro m hm
  have := List.countP_eq_zero.mp h m hm
  cases m <;> simp_all [TableMsg.isAnswered, TableMsg.isLookup]

/-- The awaited outcome taken, with the binding it brings recorded: a context with an outcome that binds has none (R22). -/
theorem recorded_counted {a : Query} {v : Verdict} {n : Option (SlotIx × BitVec 8)} {b : Option Binding}
    {rest : List TableReply} (first : q.fromTable = .lookup a v n b :: rest) (fresh : q.stale = 0)
    (awaited : q.awaiting = true) :
    q.Counted { q.giveUpBinding with bound := b, fromTable := rest, awaiting := false } := fun ok => by
  obtain ⟨rfl, unanswered⟩ := last_outcome ok first fresh
  have given : BindingOk q.giveUpBinding := ok.giveUpBinding
  have noLookup : q.giveUpBinding.toTable.countP TableMsg.isAnswered = 0 := by
    have := given.answers
    simp only [giveUpBinding_fromTable, giveUpBinding_stale, giveUpBinding_awaiting, first, fresh, awaited, if_true] at this
    simpa using this
  have claims : ({ q.giveUpBinding with bound := b, fromTable := [], awaiting := false } : PortCtl).claims.Perm q.claims := by
    refine List.Perm.trans ?_ q.claims_giveUpBinding
    cases b with
    | none => simp [PortCtl.claims, first, List.filterMap_cons]
    | some b =>
      exact claims_recorded (q := q.giveUpBinding) (n := n) (by simp) (by rw [giveUpBinding_fromTable, first])
  refine ⟨⟨?_, ?_, fun _ => no_lookup_of_unanswered noLookup, given.order⟩, claims⟩
  · rw [claims.length_eq]; exact ok.single
  · simp [noLookup, fresh]

theorem enterLocal_same (q : PortCtl) (d : Direction) : q.SameBindings (q.enterLocal d) := by
  cases d <;> exact ⟨q.releaseSegment_bound, q.releaseSegment_toTable, q.releaseSegment_fromTable, q.releaseSegment_stale,
    q.releaseSegment_awaiting⟩

theorem enterForward_same (q : PortCtl) (g : SegIx) (w : Width) (a : Addr) (d : Direction) :
    q.SameBindings (q.enterForward g w a d) := by
  unfold enterForward
  split
  · exact askAddress_same q w a d
  · exact ⟨q.releaseSegment_bound, q.releaseSegment_toTable, q.releaseSegment_fromTable, q.releaseSegment_stale,
      q.releaseSegment_awaiting⟩

theorem rememberTenBit_same (q : PortCtl) (a : Query) (b : Binding) : q.SameBindings (q.rememberTenBit a b) := by
  unfold rememberTenBit; split <;> exact ⟨rfl, rfl, rfl, rfl, rfl⟩

/-- The outcome that is acted on: its binding, or none, is what the context counts for (R50 to R53). -/
theorem actOnLookup_counted {a : Query} {v : Verdict} {n : Option (SlotIx × BitVec 8)} {b : Option Binding}
    {rest : List TableReply} (first : q.fromTable = .lookup a v n b :: rest) (fresh : q.stale = 0)
    (awaited : q.awaiting = true) : q.Counted (({ q with fromTable := rest } : PortCtl).actOnLookup a b) := by
  have recorded := recorded_counted first fresh awaited
  have same : ∀ (u : PortCtl) (d : Option Direction), u.SameBindings { u with direction := d } := fun _ _ =>
    ⟨rfl, rfl, rfl, rfl, rfl⟩
  unfold actOnLookup
  dsimp only
  split
  next =>
    refine (recorded.then ⟨?_, ?_, ?_, ?_, ?_⟩).trans (refuseCarried_counted _) <;> simp [giveUpBinding_eq]
  next b =>
    split
    · refine (recorded.then ⟨?_, ?_, ?_, ?_, ?_⟩).then (enterLocal_same _ _) <;> simp [giveUpBinding_eq]
    · refine ((recorded.then ⟨?_, ?_, ?_, ?_, ?_⟩).then (rememberTenBit_same _ a b)).then (enterForward_same _ _ _ _ _) <;>
        simp [giveUpBinding_eq]

/-- An outcome under way that is not acted on is one no longer awaited (R50). -/
theorem stale_of_not_acted (ok : BindingOk q) {o : TableReply} {rest : List TableReply} (first : q.fromTable = o :: rest)
    (other : ¬ (q.stale = 0 ∧ q.awaiting = true)) : 1 ≤ q.stale := by
  have answers := ok.answers
  rw [first, List.length_cons] at answers
  by_contra none
  have fresh : q.stale = 0 := by omega
  rw [if_neg fun awaited => other ⟨fresh, awaited⟩] at answers
  omega

/-- The unbind of an outcome no longer awaited goes first, so it stands before every lookup (log 29). -/
theorem order_cons_unbind {l : List TableMsg} {k : SlotIx} {gen : BitVec 8}
    (order : ∀ before a after, l = before ++ .lookup a :: after → ∀ m ∈ after, m.unbinds = none) :
    ∀ before a after, TableMsg.unbind k gen :: l = before ++ .lookup a :: after → ∀ m ∈ after, m.unbinds = none := by
  intro before a after split
  cases before with
  | nil => simp at split
  | cons x before => exact order before a after (List.cons_eq_cons.mp split).2

theorem discardOutcome_lookup_counted {a : Query} {v : Verdict} {n : Option (SlotIx × BitVec 8)} {b : Option Binding}
    {rest : List TableReply} (first : q.fromTable = .lookup a v n b :: rest)
    (other : ¬ (q.stale = 0 ∧ q.awaiting = true)) :
    q.Counted (({ q with fromTable := rest } : PortCtl).discardOutcome b) := fun ok => by
  have stale := stale_of_not_acted ok first other
  have claims := claims_discarded first
  have answers := ok.answers
  rw [first, List.length_cons] at answers
  have fewer : q.toTable.countP TableMsg.isAnswered + rest.length = q.stale - 1 + (if q.awaiting = true then 1 else 0) := by
    omega
  refine ⟨⟨by rw [claims.length_eq]; exact ok.single, ?_, ?_, ?_⟩, claims⟩
  · cases b with
    | none => exact fewer
    | some b =>
      have unbind : (TableMsg.unbind b.slot b.gen :: q.toTable).countP TableMsg.isAnswered =
          q.toTable.countP TableMsg.isAnswered := List.countP_cons_of_neg (by simp [TableMsg.isAnswered])
      exact (congrArg (· + rest.length) unbind).trans fewer
  · cases b with
    | none => exact ok.settled
    | some b => exact fun isBound m hm => (List.mem_cons.mp hm).elim (fun e => by rw [e]; rfl) (ok.settled isBound m)
  · cases b with
    | none => exact ok.order
    | some b => exact order_cons_unbind ok.order

theorem takeLookupOutcome_counted {a : Query} {v : Verdict} {n : Option (SlotIx × BitVec 8)} {b : Option Binding}
    {rest : List TableReply} (first : q.fromTable = .lookup a v n b :: rest) :
    q.Counted (({ q with fromTable := rest } : PortCtl).takeLookupOutcome a b) := by
  unfold takeLookupOutcome
  split
  next acted => exact actOnLookup_counted first acted.1 acted.2
  next other => exact discardOutcome_lookup_counted first other

/-- The outcome of a PREFIX_TEST binds nothing, so taking it away changes no count. -/
theorem claims_prefixOutcome {accepted : Bool} {rest : List TableReply} (first : q.fromTable = .prefixTest accepted :: rest)
    (n : Nat) (w : Bool) : ({ q with fromTable := rest, stale := n, awaiting := w } : PortCtl).claims = q.claims := by
  simp [claims, first, List.filterMap_cons]

theorem takePrefixOutcome_counted {accepted : Bool} {rest : List TableReply}
    (first : q.fromTable = .prefixTest accepted :: rest) :
    q.Counted (({ q with fromTable := rest } : PortCtl).takePrefixOutcome accepted) := by
  unfold takePrefixOutcome
  split
  next acted =>
    obtain ⟨fresh, awaited⟩ := acted
    have taken : q.Counted { q with fromTable := rest, awaiting := false } := fun ok => by
      obtain ⟨rfl, unanswered⟩ := last_outcome ok first fresh
      have claims := claims_prefixOutcome first q.stale false
      refine ⟨⟨by rw [claims]; exact ok.single, ?_, ok.settled, ok.order⟩, by rw [claims]⟩
      simpa [unanswered] using fresh.symm
    dsimp only
    split
    · exact taken.then ⟨rfl, rfl, rfl, rfl, rfl⟩
    · exact taken.trans (refuseCarried_counted _)
  next other =>
    intro ok
    have stale := stale_of_not_acted ok first other
    have claims : (({ q with fromTable := rest } : PortCtl).discardOutcome none).claims = q.claims :=
      claims_prefixOutcome first (q.stale - 1) q.awaiting
    have answers := ok.answers
    rw [first, List.length_cons] at answers
    refine ⟨⟨by rw [claims]; exact ok.single, ?_, ok.settled, ok.order⟩, by rw [claims]⟩
    show q.toTable.countP TableMsg.isAnswered + rest.length = q.stale - 1 + (if q.awaiting = true then 1 else 0)
    omega

/-! ### Grants, refusals and results -/

theorem takeGrant_counted (q : PortCtl) (g : SegIx) (n : Nat) : q.Counted (q.takeGrant g n) := by
  unfold takeGrant
  split
  · split
    · split
      · exact (show q.SameBindings { q with link := .owned g } from ⟨rfl, rfl, rfl, rfl, rfl⟩).counted.then
          (askAddress_same _ _ _ _)
      · exact .refl q
    · exact .refl q
  · exact .refl q

theorem takeRefusal_counted (q : PortCtl) (g : SegIx) (n : Nat) : q.Counted (q.takeRefusal g n) := by
  unfold takeRefusal
  split
  · exact ((show q.SameBindings { q with link := .none } from ⟨rfl, rfl, rfl, rfl, rfl⟩).counted.trans
      (giveUpBinding_counted _)).then (refuseAddress_same _)
  · exact .refl q

theorem report_counted (q : PortCtl) (ack : Bool) : q.Counted (q.report ack) := by
  unfold report
  split
  · cases ack
    · exact sendTable_counted q rfl rfl
    · exact sendTable_counted q rfl rfl
  · exact .refl q

theorem takeAddressAck_counted (q : PortCtl) (g : SegIx) : q.Counted (q.takeAddressAck g) := by
  unfold takeAddressAck
  split
  · dsimp only
    split
    · exact (q.report_counted true).then ⟨by simp, by simp, by simp, by simp, by simp⟩
    all_goals exact (q.report_counted true).then ⟨rfl, rfl, rfl, rfl, rfl⟩
  · exact .refl q

theorem takeAddressNack_counted (q : PortCtl) (g : SegIx) : q.Counted (q.takeAddressNack g) := by
  unfold takeAddressNack
  split
  · exact (q.report_counted false).trans (refuseCarried_counted _)
  · exact .refl q

theorem answer_same (q : PortCtl) (a : Answer) : q.SameBindings (q.answer a) := ⟨rfl, rfl, rfl, rfl, rfl⟩

theorem takeWriteResult_counted (q : PortCtl) (g : SegIx) (ack : Bool) : q.Counted (q.takeWriteResult g ack) := by
  unfold takeWriteResult
  split
  · split
    · exact (q.answer_same _).counted
    · exact (q.answer_same _).counted.trans (absorb_counted _)
  · exact .refl q

theorem takeReadResult_counted (q : PortCtl) (g : SegIx) (b : Byte) : q.Counted (q.takeReadResult g b) := by
  unfold takeReadResult
  split
  · split <;> exact SameBindings.counted ⟨rfl, rfl, rfl, rfl, rfl⟩
  · exact .refl q

theorem takeEnding_counted (q : PortCtl) (g : SegIx) : q.Counted (q.takeEnding g) := by
  have unlinked : q.SameBindings { q with link := .none } := ⟨rfl, rfl, rfl, rfl, rfl⟩
  unfold takeEnding
  split
  · dsimp only
    split
    case h_1 => exact (unlinked.counted.trans (giveUpBinding_counted _)).then (refuseAddress_same _)
    case h_2 | h_3 | h_4 =>
      exact ((unlinked.counted.then (endHoldOwnAnswer_same _)).trans (giveUpBinding_counted _)).then
        ⟨rfl, rfl, rfl, rfl, rfl⟩
    all_goals exact unlinked.counted
  · exact .refl q

/-! ### Data bytes -/

theorem takeCommandByte_counted (q : PortCtl) (b : Byte) : q.Counted (q.takeCommandByte b) := by
  unfold takeCommandByte
  split
  · split <;> exact SameBindings.counted ⟨rfl, rfl, rfl, rfl, rfl⟩
  · exact .refl q

theorem takeResponseByte_counted (q : PortCtl) (buffer : List Byte) : q.Counted (q.takeResponseByte buffer) := by
  unfold takeResponseByte
  split
  · exact SameBindings.counted ⟨rfl, rfl, rfl, rfl, rfl⟩
  · exact .refl q

theorem takeWriteByte_counted (q : PortCtl) (now : Nat) (b : Byte) : q.Counted (q.takeWriteByte now b) := by
  have refused : q.Counted (q.answer .nack).absorb := (q.answer_same _).counted.trans (absorb_counted _)
  unfold takeWriteByte
  split
  · split
    · unfold takeDeclaredLength
      split
      · exact SameBindings.counted ⟨rfl, rfl, rfl, rfl, rfl⟩
      · exact refused
    · split
      · exact SameBindings.counted ⟨by simp, by simp, by simp, by simp, by simp⟩
      · exact refused
  · exact .refl q

theorem takeReadClock_counted (q : PortCtl) (now : Nat) : q.Counted (q.takeReadClock now) := by
  unfold takeReadClock
  split
  · split
    · split
      · exact .refl q
      · exact SameBindings.counted ⟨rfl, rfl, rfl, rfl, rfl⟩
    · exact SameBindings.counted ⟨rfl, rfl, rfl, rfl, rfl⟩
  · exact .refl q

theorem takeHostAck_counted (q : PortCtl) (ack : Bool) : q.Counted (q.takeHostAck ack) := by
  have asked : ∀ a, q.SameBindings (q.dropFetched.askSegment a) := fun a => ⟨by simp, by simp, by simp, by simp, by simp⟩
  unfold takeHostAck
  split
  · dsimp only
    split
    · split
      · exact SameBindings.counted ⟨by simp, by simp, by simp, by simp, by simp⟩
      · exact (asked _).counted.trans (absorb_counted _)
    · exact (asked _).counted.then ⟨rfl, rfl, rfl, rfl, rfl⟩
  · exact .refl q

theorem takeAbsorbByte_counted (q : PortCtl) (d : Direction) : q.Counted (q.takeAbsorbByte d) := by
  unfold takeAbsorbByte
  split
  · split <;> exact (q.answer_same _).counted
  · exact .refl q

theorem takeEndingByte_counted (q : PortCtl) : q.Counted q.takeEndingByte := by
  unfold takeEndingByte
  split
  · exact (q.answer_same _).counted
  · exact .refl q

/-! ### Hold expiry and cancellation -/

/-- The binding given up and the outcome under way no longer awaited, into ABSORB (R66, R72). -/
theorem givenUp_counted {u : PortCtl} (h : q.SameBindings u) : q.Counted (u.giveUpBinding.stopAwaiting.toPhase .absorb) :=
  ((h.counted.trans (giveUpBinding_counted u)).trans (stopAwaiting_counted _)).then ⟨rfl, rfl, rfl, rfl, rfl⟩

theorem takeHoldExpiry_counted (q : PortCtl) : q.Counted q.takeHoldExpiry :=
  (givenUp_counted (u := (q.answer q.ownAnswer).leaveSegment) ⟨by simp, by simp, by simp, by simp, by simp⟩).then
    ⟨rfl, rfl, rfl, rfl, rfl⟩

theorem cancelContext_counted (q : PortCtl) : q.Counted q.cancelContext := by
  have ended := q.endHoldOwnAnswer_same
  have cancelled : ∀ u, q.SameBindings u → q.Counted
      { u.giveUpBinding.stopAwaiting.toPhase .absorb with held := none, frame := [], overflow := false } :=
    fun u h => (givenUp_counted h).then ⟨rfl, rfl, rfl, rfl, rfl⟩
  unfold cancelContext
  dsimp only
  split <;> exact cancelled _ ⟨ended.bound, ended.toTable, ended.fromTable, ended.stale, ended.awaiting⟩

theorem takeCancellation_counted (q : PortCtl) : q.Counted q.takeCancellation := by
  unfold takeCancellation
  split
  case h_1 | h_2 => exact .refl q
  all_goals exact q.cancelContext_counted

end PortCtl

end Sys2Proof.Machine
end

section
/-! What the events do to the in-flight counts and to the bindings they count (R19, R22, R23, R146). -/

namespace Sys2Proof.Machine

/-! ### One slot -/

namespace Slot

/-- A slot whose in-flight count is kept exact: in service or DRAINING (R19). -/
def isCounted (x : Slot) : Prop := x.inService = true ∨ x.state = .draining

/-- What an event that neither binds nor unbinds does to a slot's count: it stays, under the same generation, and a slot is
counted only where it was or where a STAGED slot with nothing bound goes LIVE; or the slot is FREE with nothing bound; or a
new record with nothing bound stands in it under the next generation (R3, R18, R134, R145). -/
inductive Counting (x y : Slot) : Prop
  | kept (gen : y.gen = x.gen) (inflight : y.inflight = x.inflight)
      (counted : y.isCounted → x.isCounted ∨ (x.state = .staged ∧ x.inflight = 0))
      (staged : y.state = .staged → x.state = .staged)
  | freed (free : y.state = .free) (empty : y.inflight = 0)
  | renewed (gen : y.gen = x.gen + 1#8) (empty : y.inflight = 0)

theorem Counting.refl (x : Slot) : Counting x x := .kept rfl rfl .inl id

theorem freed_counting (x : Slot) : Counting x x.freed := .freed rfl rfl

theorem stagedWith_counting (x : Slot) (r : Record) : Counting x (x.stagedWith r) := .renewed rfl rfl

theorem managementSlot_counting (x : Slot) (straps : BitVec 2) : Counting x (managementSlot straps (x.gen + 1#8)) :=
  .renewed rfl rfl

theorem marked_counting (x : Slot) (m : Bool) : Counting x { x with mark := m } := .kept rfl rfl .inl id

/-- A new lease and new strikes are no matter of the count. -/
theorem lease_counting (x : Slot) (n : Nat) (now : Nat) : Counting x (({ x with strikes := n } : Slot).reloaded now) := by
  obtain ⟨l, e⟩ := reloaded_only { x with strikes := n } now
  rw [e]
  exact .kept rfl rfl .inl id

theorem reloaded_counting (x : Slot) (now : Nat) : Counting x (x.reloaded now) := x.lease_counting x.strikes now

theorem accepted_counting (x : Slot) (gen : BitVec 8) (now : Nat) : Counting x (x.accepted gen now) := by
  unfold accepted
  split
  · exact .refl x
  · split
    · exact x.lease_counting 0 now
    · exact x.reloaded_counting now
    all_goals exact .refl x

theorem refused_counting (x : Slot) (gen : BitVec 8) : Counting x (x.refused gen).1 := by
  unfold refused
  split
  · exact .refl x
  · split
    next live =>
      have counted : x.isCounted := .inl (by simp [inService, live])
      split
      · exact .refl x
      · split
        · exact .kept rfl rfl (fun _ => .inl counted) nofun
        · exact .kept rfl rfl .inl id
    all_goals exact .refl x

theorem revived_counting {x : Slot} (quarantined : x.state = .quarantined) (now : Nat) : Counting x (x.revived now) := by
  obtain ⟨l, e⟩ := reloaded_only { x with state := .live, strikes := 0 } now
  rw [revived, e]
  exact .kept rfl rfl (fun _ => .inl (.inl (by simp [inService, quarantined]))) nofun

theorem staged_inflight {x : Slot} (ok : slotOk x) (staged : x.state = .staged) : x.inflight = 0 := by
  simp only [slotOk, staged] at ok
  obtain ⟨r, -, e⟩ := ok
  rw [e]
  rfl

/-- At a commit a STAGED slot goes LIVE, a marked one is freed or drains with its count, and any other stays (R145). -/
theorem committed_counting {x : Slot} (ok : slotOk x) (now : Nat) : Counting x (x.committed now) := by
  unfold committed
  split
  next staged =>
    obtain ⟨l, e⟩ := reloaded_only { x with state := .live, strikes := 0 } now
    rw [e]
    exact .kept rfl rfl (fun _ => .inr ⟨staged, staged_inflight ok staged⟩) nofun
  next =>
    split
    next marked =>
      split
      · exact x.freed_counting
      · exact .kept rfl rfl (fun _ => .inl (.inl (mark_in_service ok marked))) nofun
    next => exact .refl x

theorem abandoned_counting (x : Slot) : Counting x x.abandoned := by
  unfold abandoned
  split
  · exact x.freed_counting
  · exact x.marked_counting false

/-- An unbind keeps the generation; under it the count of a counted slot falls by 1, and nothing else changes a count (R23). -/
theorem unbound_counts {x : Slot} (ok : slotOk x) (gen : BitVec 8) (now : Nat) :
    (x.unbound gen now).1.gen = x.gen ∧
      ((x.unbound gen now).1.state = .staged → (x.unbound gen now).1 = x) ∧
      (x.unbound gen now).1.inflight ≤ x.inflight - (if x.gen = gen then 1 else 0) ∧
      ((x.unbound gen now).1.isCounted → x.isCounted ∧
        (x.unbound gen now).1.inflight = x.inflight - (if x.gen = gen then 1 else 0)) := by
  unfold unbound
  split
  next other => exact ⟨rfl, fun _ => rfl, by simp, fun c => ⟨c, by simp⟩⟩
  next same =>
    have same : x.gen = gen := not_not.mp same
    have reloaded : ∃ l, (if x.inflight - 1 = 0 then ({ x with inflight := x.inflight - 1 } : Slot).reloaded now
        else { x with inflight := x.inflight - 1 }) = { x with inflight := x.inflight - 1, lease := l } := by
      split
      · exact reloaded_only _ now
      · exact ⟨x.lease, rfl⟩
    simp only [if_pos same]
    split
    next free =>
      have empty : x.inflight = 0 := by
        simp only [slotOk, free] at ok
        rw [ok]; rfl
      exact ⟨rfl, fun _ => rfl, by dsimp only; omega, fun c => ⟨c, by dsimp only; omega⟩⟩
    next staged =>
      have empty := staged_inflight ok staged
      exact ⟨rfl, fun _ => rfl, by dsimp only; omega, fun c => ⟨c, by dsimp only; omega⟩⟩
    next live =>
      obtain ⟨l, e⟩ := reloaded
      rw [e]
      exact ⟨rfl, fun h => absurd (live.symm.trans h) nofun, Nat.le_refl _, fun c => ⟨c, rfl⟩⟩
    next quarantined =>
      obtain ⟨l, e⟩ := reloaded
      rw [e]
      exact ⟨rfl, fun h => absurd (quarantined.symm.trans h) nofun, Nat.le_refl _, fun c => ⟨c, rfl⟩⟩
    next draining =>
      split
      · exact ⟨rfl, nofun, Nat.zero_le _, fun c => absurd c (by simp [isCounted, inService, Slot.freed, freeWith])⟩
      · exact ⟨rfl, fun h => absurd (draining.symm.trans h) nofun, Nat.le_refl _, fun c => ⟨c, rfl⟩⟩

end Slot

/-! ### The whole part -/

/-- The bindings of state `t` are sound where those of `s` are, and count the same. -/
def SameClaims (s t : State) : Prop :=
  (∀ p, BindingOk (s.port p)) → (∀ p, BindingOk (t.port p)) ∧ ∀ k gen, t.claimsOn k gen = s.claimsOn k gen

/-- An event without a matter for the in-flight counts. -/
structure Quiet (s t : State) : Prop where
  claims : SameClaims s t
  slots : ∀ k, t.slot k = s.slot k

/-- An event that neither binds nor unbinds. -/
structure Tallied (s t : State) : Prop where
  claims : SameClaims s t
  slots : ∀ k, (s.slot k).Counting (t.slot k)

theorem SameClaims.refl (s : State) : SameClaims s s := fun h => ⟨h, fun _ _ => rfl⟩

theorem SameClaims.trans {s t u : State} (a : SameClaims s t) (b : SameClaims t u) : SameClaims s u := fun h =>
  ⟨(b (a h).1).1, fun k gen => ((b (a h).1).2 k gen).trans ((a h).2 k gen)⟩

namespace Quiet

variable {s t u : State}

theorem refl (s : State) : Quiet s s := ⟨.refl s, fun _ => rfl⟩

theorem trans (a : Quiet s t) (b : Quiet t u) : Quiet s u :=
  ⟨a.claims.trans b.claims, fun k => (b.slots k).trans (a.slots k)⟩

theorem tallied (h : Quiet s t) : Tallied s t := ⟨h.claims, fun k => by rw [h.slots]; exact .refl _⟩

theorem then_tallied (a : Quiet s t) (b : Tallied t u) : Tallied s u :=
  ⟨a.claims.trans b.claims, fun k => a.slots k ▸ b.slots k⟩

end Quiet

theorem Tallied.then_quiet {s t u : State} (a : Tallied s t) (b : Quiet t u) : Tallied s u :=
  ⟨a.claims.trans b.claims, fun k => (b.slots k).symm ▸ a.slots k⟩

/-! ### Events at one port -/

theorem sameClaims_setPort {s : State} {p : Port} {q : PortCtl} (h : (s.port p).Counted q) :
    SameClaims s (s.setPort p q) := fun ok => by
  obtain ⟨okq, perm⟩ := h (ok p)
  refine ⟨fun r => ?_, fun k gen => ?_⟩
  · rw [State.port_setPort]
    split
    · exact okq
    · exact ok r
  · have count := perm.count_eq (k, gen)
    cases p <;> simpa [State.claimsOn, State.port_setPort] using count

theorem quiet_setPort {s : State} {p : Port} {q : PortCtl} (h : (s.port p).Counted q) : Quiet s (s.setPort p q) :=
  ⟨sameClaims_setPort h, fun _ => rfl⟩

/-- An event that leaves the table and what the bindings are read from. -/
theorem quiet_of_same {s t : State} (ports : ∀ p, (s.port p).SameBindings (t.port p)) (table : t.table = s.table) :
    Quiet s t := by
  have counted : ∀ p, (s.port p).Counted (t.port p) := fun p => (ports p).counted
  refine ⟨fun ok => ⟨fun p => (counted p (ok p)).1, fun k gen => ?_⟩, fun k => by rw [State.slot, table]; rfl⟩
  simp only [State.claimsOn, ((counted _ (ok .u0)).2).count_eq, ((counted _ (ok .u1)).2).count_eq]

theorem PortCtl.SameBindings.refl (q : PortCtl) : q.SameBindings q := ⟨rfl, rfl, rfl, rfl, rfl⟩

theorem quiet_of_ports {s t : State} (ports : t.ports = s.ports) (table : t.table = s.table) : Quiet s t :=
  quiet_of_same (fun p => by simp only [State.port, ports]; exact .refl _) table

theorem quiet_advanceTo (s : State) (n : Nat) : Quiet s (s.advanceTo n) := quiet_of_ports rfl rfl

theorem quiet_raise (s : State) (n : Notice) : Quiet s (s.raise n) := quiet_of_ports rfl rfl

theorem quiet_raiseIf (s : State) (b : Bool) (n : Notice) : Quiet s (s.raiseIf b n) := by
  obtain ⟨_, _, e⟩ := State.raiseIf_only s b n
  rw [e]
  exact quiet_of_ports rfl rfl

theorem quiet_onPortMiss {s : State} {p : Port} {r : PortCtl × Bool} (h : (s.port p).Counted r.1) :
    Quiet s (s.onPortMiss p r) := (quiet_setPort h).trans (quiet_raiseIf _ _ _)

theorem quiet_takeMessage {s : State} {p : Port} {g : SegIx} {f : PortMsg → PortCtl → Option PortCtl}
    (taken : ∀ m q r, f m q = some r → q.Counted r) : Quiet s (s.takeMessage p g f) := by
  obtain e | ⟨m, rest, q, hq, e⟩ := State.takeMessage_only s p g f <;> rw [e]
  · exact .refl s
  · have unread : (s.port p).SameBindings { s.port p with fromSegments := rest } := ⟨rfl, rfl, rfl, rfl, rfl⟩
    exact quiet_setPort (unread.counted.trans (taken m _ q hq))

theorem quiet_onSegment (s : State) (g : SegIx) (r : SegStep) : Quiet s (s.onSegment g r) := by
  obtain ⟨_, _, raised⟩ := State.raiseAll_only ((s.setSeg g (r.seg.timed s.now)).deliver g r.sends) r.raises
  obtain ⟨_, delivered⟩ := State.deliver_only (s.setSeg g (r.seg.timed s.now)) g r.sends
  refine quiet_of_same (fun p => ?_) ?_
  · obtain ⟨ms, e⟩ := State.deliver_port (s.setSeg g (r.seg.timed s.now)) g r.sends p
    have port : (s.onSegment g r).port p = { s.port p with fromSegments := ms } := by
      rw [State.onSegment, raised]; exact e
    rw [port]
    exact ⟨rfl, rfl, rfl, rfl, rfl⟩
  · rw [State.onSegment, raised, delivered]; rfl

/-! ### The interpreter -/

/-- The interpreter and the flags of its completions change nothing that is counted. -/
theorem quiet_of_interp {s t : State}
    (h : ∃ i q, t = { s with interp := i, ports := q } ∧ ∀ u, ∃ d, q.get u = { s.ports.get u with ownDone := d }) :
    Quiet s t := by
  obtain ⟨i, q, rfl, ports⟩ := h
  refine quiet_of_same (fun p => ?_) rfl
  obtain ⟨d, e⟩ := ports p
  have port : ({ s with interp := i, ports := q } : State).port p = q.get p := rfl
  rw [port, e]
  exact ⟨rfl, rfl, rfl, rfl, rfl⟩

theorem quiet_reply (s : State) (p : Port) (t : ReplyTime) (r : Result) : Quiet s (s.reply p t r) :=
  quiet_of_interp (State.reply_only s p t r)

theorem quiet_writeWaiting (s : State) (p : Port) : Quiet s (s.writeWaiting p) :=
  quiet_of_interp (State.writeWaiting_only s p)

theorem quiet_takeFrame (s : State) (p : Port) (f : Frame) : Quiet s (s.takeFrame p f) := by
  obtain ⟨i, q, e, ports⟩ := State.takeFrame_only s p f
  rw [e]
  refine quiet_of_same (fun p => ?_) rfl
  obtain ⟨_, _, _, _, e⟩ := ports p
  have port : ({ s with interp := i, ports := q } : State).port p = q.get p := rfl
  rw [port, e]
  exact ⟨rfl, rfl, rfl, rfl, rfl⟩

/-! ### The table -/

theorem tallied_setSlot {s : State} {k : SlotIx} {x : Slot} (h : (s.slot k).Counting x) : Tallied s (s.setSlot k x) := by
  refine ⟨.refl s, fun j => ?_⟩
  rw [State.slot_setSlot]
  split
  next e => rw [e]; exact h
  next => exact .refl _

theorem tallied_mapSlots {s : State} {f : Slot → Slot} (h : ∀ k, (s.slot k).Counting (f (s.slot k))) :
    Tallied s (s.mapSlots f) := ⟨.refl s, fun k => by rw [State.slot_mapSlots]; exact h k⟩

theorem quiet_changeSet (s : State) (c : ChangeSet) : Quiet s { s with changeSet := c } := quiet_of_ports rfl rfl

theorem quiet_reloadIdle (s : State) : Quiet s s.reloadIdle := by
  obtain ⟨_, e⟩ := reloadIdle_only s
  rw [e]
  exact quiet_changeSet s _

theorem tallied_takeStage (s : State) (p : Port) (k : SlotIx) (i : Image) : Tallied s (s.takeStage p k i).1 := by
  unfold State.takeStage
  split
  · exact (Quiet.refl s).tallied
  · split
    · exact (quiet_reloadIdle s).tallied
    · split
      · exact (quiet_reloadIdle s).tallied
      · exact (tallied_setSlot (Slot.stagedWith_counting _ _)).then_quiet (quiet_changeSet _ _)

theorem tallied_takeUnstage (s : State) (p : Port) (k : SlotIx) : Tallied s (s.takeUnstage p k).1 := by
  unfold State.takeUnstage
  split
  · exact (Quiet.refl s).tallied
  · split
    · exact (quiet_reloadIdle s).tallied
    · exact (tallied_setSlot (Slot.freed_counting _)).then_quiet (quiet_reloadIdle _)

theorem tallied_takeMark (s : State) (p : Port) (k : SlotIx) (gen : BitVec 8) : Tallied s (s.takeMark p k gen).1 := by
  unfold State.takeMark
  split
  · exact (Quiet.refl s).tallied
  · split
    · exact (quiet_reloadIdle s).tallied
    · split
      · exact (quiet_reloadIdle s).tallied
      · exact (tallied_setSlot (Slot.marked_counting _ true)).then_quiet (quiet_changeSet _ _)

theorem tallied_takeUnmark (s : State) (p : Port) (k : SlotIx) (gen : BitVec 8) : Tallied s (s.takeUnmark p k gen).1 := by
  unfold State.takeUnmark
  split
  · exact (Quiet.refl s).tallied
  · split
    · exact (quiet_reloadIdle s).tallied
    · split
      · exact (quiet_reloadIdle s).tallied
      · exact (tallied_setSlot (Slot.marked_counting _ false)).then_quiet (quiet_reloadIdle _)

theorem tallied_takeCommit {s : State} (ok : TableOk s) (p : Port) : Tallied s (s.takeCommit p).1 := by
  unfold State.takeCommit
  split
  · exact (Quiet.refl s).tallied
  · split
    · exact (Quiet.refl s).tallied
    · split
      · exact (quiet_reloadIdle s).tallied
      · split
        · exact (quiet_reloadIdle s).tallied
        · exact (tallied_mapSlots fun k => Slot.committed_counting (ok.slots k) s.now).then_quiet (quiet_changeSet _ _)

theorem tallied_abandonChangeSet (s : State) : Tallied s s.abandonChangeSet :=
  (tallied_mapSlots fun _ => Slot.abandoned_counting _).then_quiet (quiet_changeSet _ _)

theorem tallied_takeAbandon (s : State) (p : Port) : Tallied s (s.takeAbandon p).1 := by
  unfold State.takeAbandon
  split
  · exact (Quiet.refl s).tallied
  · split
    · exact (Quiet.refl s).tallied
    · exact tallied_abandonChangeSet s

theorem tallied_takeRenew (s : State) (k : SlotIx) (gen : BitVec 8) : Tallied s (s.takeRenew k gen).1 := by
  unfold State.takeRenew
  split
  · exact (Quiet.refl s).tallied
  · split
    · exact (Quiet.refl s).tallied
    · exact tallied_setSlot (Slot.reloaded_counting _ _)

theorem tallied_takeRevive (s : State) (k : SlotIx) (gen : BitVec 8) : Tallied s (s.takeRevive k gen).1 := by
  unfold State.takeRevive
  split
  · exact (Quiet.refl s).tallied
  next quarantined =>
    split
    · exact (Quiet.refl s).tallied
    · exact tallied_setSlot (Slot.revived_counting (not_not.mp quarantined) _)

theorem State.slot_restartTable (s : State) (straps : BitVec 2) (k : SlotIx) :
    (s.restartTable straps).slot k =
      if k = 0 then managementSlot straps ((s.slot 0).gen + 1#8) else (s.slot k).freed := by
  have zero : (0 = k.val) ↔ k = 0 := by rw [Fin.ext_iff, eq_comm]; rfl
  simp [restartTable, slot, Vector.get_eq_getElem, Vector.getElem_set, zero]

theorem tallied_restartTable (s : State) (straps : BitVec 2) : Tallied s (s.restartTable straps) := by
  refine ⟨(quiet_of_ports (t := { s with changeSet := .empty, straps := straps }) rfl rfl).claims, fun k => ?_⟩
  rw [State.slot_restartTable]
  split
  next zero => rw [zero]; exact Slot.managementSlot_counting _ straps
  next => exact Slot.freed_counting _

/-! ### RESTART -/

theorem quiet_atRestartStep (s : State) (p : Port) (n : Nat) (gen : BitVec 8) (a : Byte) :
    Quiet s (s.atRestartStep p n gen a) := quiet_of_ports rfl rfl

theorem quiet_restartStep2 (s : State) : Quiet s s.restartStep2 :=
  State.restartStep2_induct (P := Quiet s) (fun t g h => h.trans (quiet_onSegment t g _)) (.refl s)

theorem quiet_restartStep5 (s : State) (p : Port) (gen : BitVec 8) (a : Byte) : Quiet s (s.restartStep5 p gen a) := by
  have written := quiet_of_interp (State.writeResponse_only
    (s.setInterp (otherPort p) { s.interpOf (otherPort p) with buffer := responseBytes .none [] }) p (.done .ok [gen, a]))
  refine ((quiet_of_ports rfl rfl : Quiet s (s.setInterp (otherPort p) _)).trans written).trans (quiet_setPort ?_)
  exact PortCtl.SameBindings.counted ⟨rfl, rfl, rfl, rfl, rfl⟩

namespace State

/-- RESTART of port `p` in state `s` is past its third step, or not in progress: it will not restart the table. -/
def pastTableRestart (s : State) (p : Port) : Prop := ∀ n gen a, s.restartProgress p = some (n, gen, a) → 3 ≤ n

theorem pastTableRestart_atRestartStep (s : State) (p : Port) {n : Nat} (late : 3 ≤ n) (gen : BitVec 8) (a : Byte) :
    (s.atRestartStep p n gen a).pastTableRestart p := by
  intro m gen' a' progress
  simp only [restartProgress, atRestartStep, interpOf_setInterp_same] at progress
  cases e : (s.interpOf p).execution with
  | none => simp [e] at progress
  | some x =>
    simp only [e, Option.map_some, Option.some.injEq, Prod.mk.injEq] at progress
    omega

theorem pastTableRestart_restartStep5 (s : State) (p : Port) (gen : BitVec 8) (a : Byte) :
    (s.restartStep5 p gen a).pastTableRestart p := by
  intro n gen' a' progress
  simp [restartProgress, restartStep5, writeResponse] at progress

end State

/-- Where RESTART has not come to its third step nothing is counted anew; from there on the table is restarted once (R25). -/
def RestartTallied (p : Port) (s t : State) : Prop := Quiet s t ∨ (Tallied s t ∧ t.pastTableRestart p)

theorem restartTallied_step {p : Port} {s t : State} (h : RestartTallied p s t) (straps : BitVec 2) :
    RestartTallied p s (t.restartStep p straps) := by
  have later : ∀ {u : State}, Quiet t u → u.pastTableRestart p → RestartTallied p s u := fun quiet past =>
    h.elim (fun q => .inl (q.trans quiet)) fun c => .inr ⟨c.1.then_quiet quiet, past⟩
  unfold State.restartStep
  split
  next => exact h
  next gen a progress =>
    have early : Quiet s t := h.resolve_right fun c => absurd (c.2 _ _ _ progress) (by decide)
    have cancelled : Quiet t (t.restartStep1 p) := quiet_setPort (PortCtl.takeCancellation_counted _)
    exact .inl ((early.trans cancelled).trans (quiet_atRestartStep _ p 1 gen a))
  next gen a progress =>
    have early : Quiet s t := h.resolve_right fun c => absurd (c.2 _ _ _ progress) (by decide)
    exact .inl ((early.trans (quiet_restartStep2 t)).trans (quiet_atRestartStep _ p 2 gen a))
  next progress =>
    have early : Quiet s t := h.resolve_right fun c => absurd (c.2 _ _ _ progress) (by decide)
    exact .inr ⟨(early.then_tallied (tallied_restartTable t straps)).then_quiet (quiet_atRestartStep _ p 3 _ _),
      State.pastTableRestart_atRestartStep _ p (Nat.le_refl 3) _ _⟩
  next gen a progress =>
    have emptied : Quiet t t.emptyNotices := quiet_of_ports rfl rfl
    exact later (emptied.trans (quiet_atRestartStep _ p 4 gen a))
      (State.pastTableRestart_atRestartStep _ p (by decide) gen a)
  next gen a _ _ _ _ progress =>
    exact later (quiet_restartStep5 t p gen a) (State.pastTableRestart_restartStep5 t p gen a)

theorem RestartTallied.tallied {p : Port} {s t : State} (h : RestartTallied p s t) : Tallied s t :=
  h.elim Quiet.tallied And.left

end Sys2Proof.Machine
end

section
/-! Every step keeps the in-flight counts within the bindings, and equal to them (R19, R22, R23, R146; log 29). -/

namespace Sys2Proof.Machine

/-! ### A lookup and a PREFIX_TEST at their port -/

namespace BindingOk

variable {q : PortCtl} {m : TableMsg} {rest : List TableMsg}

/-- The bindings read of a port whose first message to the table manager is taken and answered by the outcome `o`. -/
theorem answered (ok : BindingOk q) (first : q.toTable = m :: rest) (answers : m.isAnswered = true) {o : TableReply}
    (single : ({ q with toTable := rest, fromTable := q.fromTable ++ [o] } : PortCtl).claims.length ≤ 1) :
    BindingOk { q with toTable := rest, fromTable := q.fromTable ++ [o] } := by
  have counts := ok.answers
  have unbindsLater := ok.order
  have noLookup := ok.settled
  rw [first] at counts unbindsLater noLookup
  rw [List.countP_cons_of_pos answers] at counts
  refine ⟨single, ?_, fun isBound x hx => noLookup isBound x (List.mem_cons_of_mem m hx), fun before a after split => ?_⟩
  · show rest.countP TableMsg.isAnswered + (q.fromTable ++ [o]).length = q.stale + if q.awaiting = true then 1 else 0
    rw [List.length_append, List.length_singleton]
    omega
  · exact unbindsLater (m :: before) a after (congrArg (m :: ·) split)

/-- The bindings read of a port whose first message to the table manager is taken, without an outcome. -/
theorem tail (ok : BindingOk q) (first : q.toTable = m :: rest) (answers : m.isAnswered = false) :
    BindingOk { q with toTable := rest } := by
  have claims : ({ q with toTable := rest } : PortCtl).claims.length ≤ q.claims.length := by
    simp only [PortCtl.claims, first, List.length_append]
    have := (List.sublist_cons_self m rest).filterMap TableMsg.unbinds |>.length_le
    omega
  have counts := ok.answers
  have unbindsLater := ok.order
  have noLookup := ok.settled
  rw [first] at counts unbindsLater noLookup
  rw [List.countP_cons_of_neg (by simp [answers])] at counts
  refine ⟨claims.trans ok.single, counts, fun isBound x hx => noLookup isBound x (List.mem_cons_of_mem m hx),
    fun before a after split => ?_⟩
  exact unbindsLater (m :: before) a after (congrArg (m :: ·) split)

end BindingOk

namespace PortCtl

variable {q : PortCtl} {m : TableMsg} {rest : List TableMsg}

/-- An outcome that binds nothing, for a message taken that unbinds nothing, changes no count. -/
theorem answered_counted (first : q.toTable = m :: rest) (answers : m.isAnswered = true) (unbinds : m.unbinds = none)
    {o : TableReply} (binds : o.binds = none) :
    q.Counted { q with toTable := rest, fromTable := q.fromTable ++ [o] } := fun ok => by
  have claims : ({ q with toTable := rest, fromTable := q.fromTable ++ [o] } : PortCtl).claims = q.claims := by
    simp [PortCtl.claims, first, unbinds, binds]
  exact ⟨ok.answered first answers (by rw [claims]; exact ok.single), by rw [claims]⟩

/-- A report taken changes no count (R80). -/
theorem reported_counted (first : q.toTable = m :: rest) (answers : m.isAnswered = false) (unbinds : m.unbinds = none) :
    q.Counted { q with toTable := rest } := fun ok => by
  have claims : ({ q with toTable := rest } : PortCtl).claims = q.claims := by
    simp [PortCtl.claims, first, unbinds]
  exact ⟨ok.tail first answers, by rw [claims]⟩

end PortCtl

/-! ### What keeps the counts -/

/-- The in-flight counts stay within the bindings, and equal to them where no binding names a next generation (R18, R19). -/
structure KeepsCounts (s t : State) : Prop where
  within : countsOk s → countsOk t
  exact : countsOk s → countsExact s → nextGenerationsFresh s → countsExact t

theorem Tallied.keepsCounts {s t : State} (h : Tallied s t) : KeepsCounts s t where
  within := fun ⟨bindings, counts⟩ => by
    obtain ⟨okt, same⟩ := h.claims bindings
    refine ⟨okt, fun k => ?_⟩
    rw [same]
    cases h.slots k with
    | kept gen inflight counted staged => rw [gen, inflight]; exact counts k
    | freed free empty => rw [empty]; exact Nat.zero_le _
    | renewed gen empty => rw [empty]; exact Nat.zero_le _
  exact := fun ⟨bindings, counts⟩ equal fresh k => by
    obtain ⟨okt, same⟩ := h.claims bindings
    rw [same]
    cases h.slots k with
    | kept gen inflight counted staged =>
      rw [gen, inflight]
      refine ⟨fun c => ?_, fun c => (equal k).2 (staged c)⟩
      obtain was | ⟨wasStaged, empty⟩ := counted c
      · exact (equal k).1 was
      · rw [empty, (equal k).2 wasStaged]
    | freed free empty =>
      exact ⟨fun c => absurd c (by simp [Slot.inService, free]), fun c => absurd (free.symm.trans c) nofun⟩
    | renewed gen empty => rw [gen, empty, fresh k]; exact ⟨fun _ => rfl, fun _ => rfl⟩

theorem Quiet.keepsCounts {s t : State} (h : Quiet s t) : KeepsCounts s t := h.tallied.keepsCounts

/-- Counts are kept by an event whose later part is quiet. -/
theorem KeepsCounts.then_quiet {s t u : State} (a : KeepsCounts s t) (b : Quiet t u) : KeepsCounts s u where
  within h := b.keepsCounts.within (a.within h)
  exact h e f k := by
    have equal := a.exact h e f k
    rw [b.slots, (b.claims (a.within h).1).2]
    exact equal

/-! ### Binding and unbinding -/

/-- How often a port's claims count on a slot under a generation, after port `p`'s controller is replaced. -/
theorem claimsOn_setPort {s : State} {p : Port} {q : PortCtl} {k : SlotIx} {gen : BitVec 8} {n m : Nat}
    (h : q.claims.count (k, gen) + n = (s.port p).claims.count (k, gen) + m) :
    (s.setPort p q).claimsOn k gen + n = s.claimsOn k gen + m := by
  cases p <;> simp [State.claimsOn, State.port_setPort] <;> omega

/-- The binding of a lookup names the generation of a slot in service (R22, R33). -/
theorem lookupBinding_gen {s : State} {p : Port} {q : Query} {b : Binding} (h : s.lookupBinding p q = some b) :
    b.gen = (s.slot b.slot).gen := by
  unfold State.lookupBinding at h
  split at h
  · obtain ⟨d, -, rfl⟩ := Option.map_eq_some_iff.mp h; rfl
  · obtain ⟨d, -, rfl⟩ := Option.map_eq_some_iff.mp h; rfl
  · cases h

/-- The bind of the winner and the claim of its context rise together: both are 1 more, on the slot and generation bound (R22). -/
theorem keepsCounts_bind {s : State} {p : Port} {a : Query} {rest : List TableMsg} {v : Verdict}
    {w : Option (SlotIx × BitVec 8)} {b : Binding} (first : (s.port p).toTable = .lookup a :: rest)
    (taken : (s.port p).fromTable = []) (gen : b.gen = (s.slot b.slot).gen) (serves : (s.slot b.slot).inService = true) :
    KeepsCounts s ((s.setSlot b.slot ((s.slot b.slot).bound s.now)).setPort p
      { s.port p with toTable := rest, fromTable := (s.port p).fromTable ++ [.lookup a v w (some b)] }) := by
  generalize slotIs : (s.slot b.slot).bound s.now = x
  have boundGen : x.gen = (s.slot b.slot).gen := by rw [← slotIs]; rfl
  have boundCount : x.inflight = (s.slot b.slot).inflight + 1 := by rw [← slotIs]; rfl
  have boundState : x.state = (s.slot b.slot).state := by rw [← slotIs]; rfl
  generalize portIs : ({ s.port p with
    toTable := rest, fromTable := (s.port p).fromTable ++ [.lookup a v w (some b)] } : PortCtl) = q
  have claims : BindingOk (s.port p) → q.claims.Perm ((b.slot, b.gen) :: (s.port p).claims) := fun ok => by
    have none := ok.unclaimed first taken
    have bound := PortCtl.claims_bind { s.port p with toTable := rest } a v w b
    have tail : ({ s.port p with toTable := rest } : PortCtl).claims = (s.port p).claims := by
      simp [PortCtl.claims, first, List.filterMap_cons]
    rw [tail, portIs] at bound
    exact bound
  have claimsOn : BindingOk (s.port p) → ∀ k gen',
      ((s.setSlot b.slot x).setPort p q).claimsOn k gen' = s.claimsOn k gen' + if (b.slot, b.gen) = (k, gen') then 1 else 0 :=
    fun ok k gen' => by
      refine claimsOn_setPort (s := s.setSlot b.slot x) (n := 0) ?_
      rw [(claims ok).count_eq, List.count_cons]
      simp
  have slot : ∀ k, ((s.setSlot b.slot x).setPort p q).slot k = if k = b.slot then x else s.slot k := fun k =>
    State.slot_setSlot s b.slot k x
  refine ⟨fun ⟨bindings, counts⟩ => ⟨fun r => ?_, fun k => ?_⟩, fun ⟨bindings, counts⟩ equal fresh k => ?_⟩
  · rw [State.port_setPort]
    split
    · have none := (bindings p).unclaimed first taken
      rw [← portIs]
      refine (bindings p).answered first rfl ?_
      rw [portIs, (claims (bindings p)).length_eq, none]
      exact Nat.le_refl 1
    · exact bindings r
  · rw [slot, claimsOn (bindings p)]
    split
    next e =>
      have := counts b.slot
      rw [e, boundGen, boundCount, gen, if_pos rfl]
      omega
    next => exact (counts k).trans (Nat.le_add_right _ _)
  · rw [slot, claimsOn (bindings p)]
    split
    next e =>
      rw [e, boundGen, boundCount, boundState, gen, if_pos rfl]
      refine ⟨fun _ => ?_, fun staged => absurd serves (by simp [Slot.inService, staged])⟩
      rw [(equal b.slot).1 (.inl serves)]
    next other =>
      rw [if_neg fun c => other (Prod.mk.inj c).1.symm]
      exact equal k

/-- A message taken at the table manager and answered by the outcome `o`. -/
theorem State.replied_eq {s u : State} {p : Port} {m : TableMsg} {rest : List TableMsg}
    (first : (s.port p).toTable = m :: rest) (o : TableReply) (same : u.port p = s.port p) :
    (u.dropTableMsg p).replyTo p o =
      u.setPort p { s.port p with toTable := rest, fromTable := (s.port p).fromTable ++ [o] } := by
  simp [dropTableMsg, replyTo, onPort, same, first, setPort_setPort]

theorem keepsCounts_takeLookup {s : State} {p : Port} {a : Query} {rest : List TableMsg}
    (first : (s.port p).toTable = .lookup a :: rest) (taken : (s.port p).fromTable = []) :
    KeepsCounts s (s.takeLookup p a) := by
  refine KeepsCounts.then_quiet ?_ (quiet_raiseIf _ _ _)
  cases binding : s.lookupBinding p a with
  | none =>
    rw [State.bindWinner, State.replied_eq first _ rfl]
    exact (quiet_setPort (PortCtl.answered_counted first rfl rfl rfl)).keepsCounts
  | some b =>
    rw [State.bindWinner, State.replied_eq (u := s.setSlot b.slot _) first _ rfl]
    exact keepsCounts_bind first taken (lookupBinding_gen binding) (lookupBinding_service binding)

/-- The claim of an unbind and the count of its slot fall together (R23). -/
theorem keepsCounts_unbind {s : State} {p : Port} {k : SlotIx} {gen : BitVec 8} {rest : List TableMsg}
    (first : (s.port p).toTable = .unbind k gen :: rest) (table : TableOk s) :
    KeepsCounts s ((s.setSlot k ((s.slot k).unbound gen s.now).1).dropTableMsg p) := by
  have dropped : (s.setSlot k ((s.slot k).unbound gen s.now).1).dropTableMsg p =
      (s.setSlot k ((s.slot k).unbound gen s.now).1).setPort p { s.port p with toTable := rest } := by
    simp [State.dropTableMsg, State.onPort, first]
  rw [dropped]
  obtain ⟨sameGen, sameStaged, fewer, counted⟩ := Slot.unbound_counts (table.slots k) gen s.now
  generalize ((s.slot k).unbound gen s.now).1 = x at *
  have claims : (s.port p).claims.Perm ((k, gen) :: ({ s.port p with toTable := rest } : PortCtl).claims) :=
    PortCtl.claims_unbind first
  have claimsOn : ∀ j gen', ((s.setSlot k x).setPort p { s.port p with toTable := rest }).claimsOn j gen' +
      (if (k, gen) = (j, gen') then 1 else 0) = s.claimsOn j gen' := fun j gen' => by
    refine claimsOn_setPort (s := s.setSlot k x) (m := 0) ?_
    rw [State.setSlot_port, claims.count_eq, List.count_cons]
    simp
  have slot : ∀ j, ((s.setSlot k x).setPort p { s.port p with toTable := rest }).slot j = if j = k then x else s.slot j :=
    fun j => State.slot_setSlot s k j x
  have here : (if (k, gen) = (k, (s.slot k).gen) then 1 else 0) = if (s.slot k).gen = gen then 1 else 0 := by
    simp [eq_comm]
  refine ⟨fun ⟨bindings, counts⟩ => ⟨fun r => ?_, fun j => ?_⟩, fun ⟨bindings, counts⟩ equal fresh j => ?_⟩
  · rw [State.port_setPort]
    split
    · exact (bindings p).tail first rfl
    · exact bindings r
  · rw [slot]
    split
    next e =>
      have claimed := claimsOn k (s.slot k).gen
      have := counts k
      rw [here] at claimed
      rw [e, sameGen]
      omega
    next other =>
      have claimed := claimsOn j (s.slot j).gen
      rw [if_neg fun c => other (Prod.mk.inj c).1.symm] at claimed
      have := counts j
      omega
  · rw [slot]
    split
    next e =>
      have claimed := claimsOn k (s.slot k).gen
      rw [here] at claimed
      rw [e, sameGen]
      refine ⟨fun c => ?_, fun staged => ?_⟩
      · obtain ⟨was, inflight⟩ := counted c
        have := (equal k).1 was
        omega
      · rw [sameStaged staged] at staged
        have := (equal k).2 staged
        omega
    next other =>
      have claimed := claimsOn j (s.slot j).gen
      rw [if_neg fun c => other (Prod.mk.inj c).1.symm, Nat.add_zero] at claimed
      rw [claimed]
      exact equal j

/-! ### Every command -/

/-- An event in a state with sound ports and table answers a next state, and keeps the counts. -/
def CountsKept (s : State) (r : StepResult) : Prop := ∃ t, r = .next t ∧ KeepsCounts s t

theorem KeepsCounts.kept {s t : State} (h : KeepsCounts s t) : CountsKept s (.next t) := ⟨t, rfl, h⟩

theorem countsKept_unchanged (s : State) : CountsKept s (.next s) := (Quiet.refl s).keepsCounts.kept

theorem countsKept_onPort {s : State} {p : Port} {f : PortCtl → PortCtl} (h : (s.port p).Counted (f (s.port p))) :
    CountsKept s (.next (s.onPort p f)) := (quiet_setPort h).keepsCounts.kept

theorem countsKept_onPortMiss {s : State} {p : Port} {r : PortCtl × Bool} (h : (s.port p).Counted r.1) :
    CountsKept s (.next (s.onPortMiss p r)) := (quiet_onPortMiss h).keepsCounts.kept

theorem countsKept_takeMessage {s : State} {p : Port} {g : SegIx} {f : PortMsg → PortCtl → Option PortCtl}
    (taken : ∀ m q r, f m q = some r → q.Counted r) : CountsKept s (.next (s.takeMessage p g f)) :=
  (quiet_takeMessage taken).keepsCounts.kept

theorem countsKept_onSegment (s : State) (g : SegIx) (r : SegStep) : CountsKept s (.next (s.onSegment g r)) :=
  (quiet_onSegment s g r).keepsCounts.kept

theorem countsKept_segMsg (s : State) (p : Port) (g : SegIx) (r : SegStep) :
    CountsKept s (.next ((s.dropSegMsg p).onSegment g r)) := by
  have dropped : Quiet s (s.dropSegMsg p) := quiet_setPort (PortCtl.SameBindings.counted ⟨rfl, rfl, rfl, rfl, rfl⟩)
  exact (dropped.trans (quiet_onSegment _ g r)).keepsCounts.kept

theorem countsKept_finish {s : State} {r : State × Result} (h : Tallied s r.1) (p : Port) (t : ReplyTime) :
    CountsKept s (finish p t r) := (h.then_quiet (quiet_reply r.1 p t r.2)).keepsCounts.kept

section

variable (s : State) (p : Port) (g : SegIx) (t : ReplyTime)

theorem countsKept_deviceReset (straps : BitVec 2) : CountsKept s (execDeviceReset straps s) := by
  have reset : Quiet (State.resetWith straps) { State.resetWith straps with now := s.now, pending := s.pending } :=
    quiet_of_ports rfl rfl
  refine ⟨_, rfl, fun _ => reset.keepsCounts.within (countsOk_resetWith straps), fun _ _ _ => ?_⟩
  exact reset.keepsCounts.exact (countsOk_resetWith straps) (countsExact_resetWith straps)
    (nextGenerationsFresh_resetWith straps)

theorem countsKept_holdExpiry : CountsKept s (execHoldExpiry p s) := by
  unfold execHoldExpiry
  split
  next moment _ =>
    have expired : Quiet (s.advanceTo moment) ((s.advanceTo moment).onPort p PortCtl.takeHoldExpiry) :=
      quiet_setPort (PortCtl.takeHoldExpiry_counted _)
    exact (((quiet_advanceTo s moment).trans expired).trans (quiet_raise _ _)).keepsCounts.kept
  next => exact countsKept_unchanged s

theorem countsKept_lookup : CountsKept s (execLookup p s) := by
  unfold execLookup
  split
  next first taken => exact (keepsCounts_takeLookup first taken).kept
  next => exact countsKept_unchanged s

theorem countsKept_prefixTest : CountsKept s (execPrefixTest p s) := by
  unfold execPrefixTest
  split
  next first =>
    unfold State.takePrefixTest
    rw [State.replied_eq first _ rfl]
    exact ((quiet_setPort (PortCtl.answered_counted first rfl rfl rfl)).trans (quiet_raiseIf _ _ _)).keepsCounts.kept
  next => exact countsKept_unchanged s

theorem countsKept_unbind (table : TableOk s) : CountsKept s (execUnbind p s) := by
  unfold execUnbind
  split
  next first => exact ((keepsCounts_unbind first table).then_quiet (quiet_raiseIf _ _ _)).kept
  next => exact countsKept_unchanged s

/-- A report taken from port `p`, with what it does to its slot (R80, R165, R167). -/
theorem tallied_report {s : State} {p : Port} {m : TableMsg} {rest : List TableMsg} (first : (s.port p).toTable = m :: rest)
    (answers : m.isAnswered = false) (unbinds : m.unbinds = none) {k : SlotIx} {x : Slot}
    (slot : (s.slot k).Counting x) : Tallied s ((s.setSlot k x).dropTableMsg p) := by
  refine (tallied_setSlot slot).then_quiet (quiet_setPort ?_)
  show (s.port p).Counted { s.port p with toTable := (s.port p).toTable.tail }
  rw [first]
  exact PortCtl.reported_counted first answers unbinds

theorem countsKept_acceptanceReport : CountsKept s (execAcceptanceReport p s) := by
  unfold execAcceptanceReport
  split
  next first => exact (tallied_report first rfl rfl (Slot.accepted_counting _ _ _)).keepsCounts.kept
  next => exact countsKept_unchanged s

theorem countsKept_refusalReport : CountsKept s (execRefusalReport p s) := by
  unfold execRefusalReport
  split
  next first =>
    exact ((tallied_report first rfl rfl (Slot.refused_counting _ _)).then_quiet (quiet_raiseIf _ _ _)).keepsCounts.kept
  next => exact countsKept_unchanged s

theorem countsKept_leaseExpiry (k : SlotIx) : CountsKept s (execLeaseExpiry k s) := by
  unfold execLeaseExpiry
  split
  next moment _ =>
    split
    · have freed : Tallied (s.advanceTo moment) ((s.advanceTo moment).setSlot k (s.slot k).freed) :=
        tallied_setSlot (Slot.freed_counting _)
      exact (((quiet_advanceTo s moment).then_tallied freed).then_quiet (quiet_raise _ _)).keepsCounts.kept
    · exact countsKept_unchanged s
  all_goals exact countsKept_unchanged s

theorem countsKept_idleExpiry : CountsKept s (execIdleExpiry s) := by
  unfold execIdleExpiry
  split
  · exact (((quiet_advanceTo s _).then_tallied (tallied_abandonChangeSet _)).then_quiet (quiet_raise _ _)).keepsCounts.kept
  all_goals exact countsKept_unchanged s

theorem countsKept_lookupOutcome : CountsKept s (execLookupOutcome p s) := by
  unfold execLookupOutcome
  split
  next first => exact countsKept_onPort (PortCtl.takeLookupOutcome_counted first)
  next => exact countsKept_unchanged s

theorem countsKept_prefixOutcome : CountsKept s (execPrefixOutcome p s) := by
  unfold execPrefixOutcome
  split
  next first => exact countsKept_onPort (PortCtl.takePrefixOutcome_counted first)
  next => exact countsKept_unchanged s

theorem countsKept_grantTaken : CountsKept s (execGrantTaken p g s) :=
  countsKept_takeMessage fun m q r taken => by
    split at taken <;> cases taken
    exact PortCtl.takeGrant_counted q g _

theorem countsKept_refusalTaken : CountsKept s (execRefusalTaken p g s) :=
  countsKept_takeMessage fun m q r taken => by
    split at taken <;> cases taken
    exact PortCtl.takeRefusal_counted q g _

theorem countsKept_addressAck : CountsKept s (execAddressAck p g s) :=
  countsKept_takeMessage fun m q r taken => by
    split at taken <;> cases taken
    exact PortCtl.takeAddressAck_counted q g

theorem countsKept_addressNack : CountsKept s (execAddressNack p g s) :=
  countsKept_takeMessage fun m q r taken => by
    split at taken <;> cases taken
    exact PortCtl.takeAddressNack_counted q g

theorem countsKept_writeByteResult : CountsKept s (execWriteByteResult p g s) :=
  countsKept_takeMessage fun m q r taken => by
    split at taken <;> cases taken
    exact PortCtl.takeWriteResult_counted q g _

theorem countsKept_readByteResult : CountsKept s (execReadByteResult p g s) :=
  countsKept_takeMessage fun m q r taken => by
    split at taken <;> cases taken
    exact PortCtl.takeReadResult_counted q g _

theorem countsKept_lost : CountsKept s (execLost p g s) :=
  countsKept_takeMessage fun m q r taken => by
    split at taken <;> cases taken
    exact PortCtl.takeEnding_counted q g

theorem countsKept_fault : CountsKept s (execFault p g s) :=
  countsKept_takeMessage fun m q r taken => by
    split at taken <;> cases taken
    exact PortCtl.takeEnding_counted q g

theorem countsKept_cancelled : CountsKept s (execCancelled p g s) :=
  countsKept_takeMessage fun m q r taken => by
    split at taken <;> cases taken
    exact PortCtl.takeEnding_counted q g

theorem countsKept_ackBitDone : CountsKept s (execAckBitDone p g s) :=
  countsKept_takeMessage fun m q r taken => by
    split at taken <;> cases taken
    exact .refl q

theorem countsKept_segmentRequest : CountsKept s (execSegmentRequest p s) := by
  unfold execSegmentRequest
  split
  · exact countsKept_segMsg s p _ _
  · exact countsKept_unchanged s

theorem countsKept_withdrawal : CountsKept s (execWithdrawal p s) := by
  unfold execWithdrawal
  split
  · exact countsKept_segMsg s p _ _
  · exact countsKept_unchanged s

theorem countsKept_release : CountsKept s (execRelease p s) := by
  unfold execRelease
  split
  · exact countsKept_segMsg s p _ _
  · exact countsKept_unchanged s

theorem countsKept_ask : CountsKept s (execAsk p s) := by
  unfold execAsk
  split
  · exact countsKept_segMsg s p _ _
  · exact countsKept_unchanged s

theorem countsKept_startCondition : CountsKept s (execStartCondition g s) := by
  unfold execStartCondition
  split
  · split
    · exact ((quiet_advanceTo s _).trans (quiet_onSegment _ g _)).keepsCounts.kept
    · exact countsKept_onSegment s g _
  · exact countsKept_onSegment s g _
  · exact countsKept_onSegment s g _
  all_goals exact countsKept_unchanged s

theorem countsKept_clockLowExpiry : CountsKept s (execClockLowExpiry g s) := by
  unfold execClockLowExpiry
  split
  · exact ((quiet_advanceTo s _).trans (quiet_onSegment _ g _)).keepsCounts.kept
  · exact countsKept_unchanged s

theorem countsKept_handOver : CountsKept s (execHandOver p s) := by
  unfold execHandOver
  split
  · exact (quiet_takeFrame s p _).keepsCounts.kept
  · exact countsKept_unchanged s

theorem countsKept_executionComplete (ports : portsOk s) (issuer : Port) :
    CountsKept s (execExecutionComplete p issuer s) := by
  unfold execExecutionComplete
  split
  · have sound : PortOk ((s.writeWaiting p).port p) := (keeps_writeWaiting s p).ports ports p
    exact ((quiet_writeWaiting s p).trans (quiet_onPortMiss (PortCtl.takeOwnDone_counted sound))).keepsCounts.kept
  · exact countsKept_onPortMiss (PortCtl.takeRestartDone_counted (ports p))

theorem countsKept_restart (straps : BitVec 2) (whole : Bool) : CountsKept s (execRestart p straps whole s) := by
  have here : RestartTallied p s s := .inl (.refl s)
  unfold execRestart
  cases whole
  · exact (restartTallied_step here straps).tallied.keepsCounts.kept
  · have taken := State.restartWhole_induct (P := RestartTallied p s) (straps := straps)
      (fun u h => restartTallied_step h straps) here
    exact taken.tallied.keepsCounts.kept

theorem countsKept_stage : CountsKept s (execStage p t s) := by
  unfold execStage
  split
  · exact countsKept_finish (tallied_takeStage s p _ _) p t
  · exact countsKept_unchanged s

theorem countsKept_unstage : CountsKept s (execUnstage p t s) := by
  unfold execUnstage
  split
  · exact countsKept_finish (tallied_takeUnstage s p _) p t
  · exact countsKept_unchanged s

theorem countsKept_mark : CountsKept s (execMark p t s) := by
  unfold execMark
  split
  · exact countsKept_finish (tallied_takeMark s p _ _) p t
  · exact countsKept_unchanged s

theorem countsKept_unmark : CountsKept s (execUnmark p t s) := by
  unfold execUnmark
  split
  · exact countsKept_finish (tallied_takeUnmark s p _ _) p t
  · exact countsKept_unchanged s

theorem countsKept_commit (table : TableOk s) : CountsKept s (execCommit p t s) := by
  unfold execCommit
  split
  · exact countsKept_finish (tallied_takeCommit table p) p t
  · exact countsKept_unchanged s

theorem countsKept_abandon : CountsKept s (execAbandon p t s) := by
  unfold execAbandon
  split
  · exact countsKept_finish (tallied_takeAbandon s p) p t
  · exact countsKept_unchanged s

theorem countsKept_renew : CountsKept s (execRenew p t s) := by
  unfold execRenew
  split
  · exact countsKept_finish (tallied_takeRenew s _ _) p t
  · exact countsKept_unchanged s

theorem countsKept_revive : CountsKept s (execRevive p t s) := by
  unfold execRevive
  split
  · exact countsKept_finish (tallied_takeRevive s _ _) p t
  · exact countsKept_unchanged s

theorem countsKept_readRecord : CountsKept s (execReadRecord p t s) := by
  unfold execReadRecord
  split
  · exact countsKept_finish ((Quiet.refl s).tallied) p t
  · exact countsKept_unchanged s

theorem countsKept_probe : CountsKept s (execProbe p t s) := by
  unfold execProbe
  split
  · exact countsKept_finish ((Quiet.refl s).tallied) p t
  · exact countsKept_unchanged s

theorem countsKept_readStatus : CountsKept s (execReadStatus p t s) := by
  unfold execReadStatus
  split
  · exact countsKept_finish ((Quiet.refl s).tallied) p t
  · exact countsKept_unchanged s

theorem countsKept_readSegment : CountsKept s (execReadSegment p t s) := by
  unfold execReadSegment
  split
  · exact countsKept_finish ((Quiet.refl s).tallied) p t
  · exact countsKept_unchanged s

theorem countsKept_readNotices : CountsKept s (execReadNotices p t s) := by
  unfold execReadNotices
  split
  · exact countsKept_finish ((Quiet.refl s).tallied) p t
  · exact countsKept_unchanged s

theorem tallied_takeSegmentConfig (g : SegIx) (c : ConfigChange) : Tallied s (s.takeSegmentConfig g c).1 := by
  unfold State.takeSegmentConfig
  split
  · exact (quiet_of_ports rfl rfl : Quiet s (s.setSeg g _)).tallied
  all_goals exact (Quiet.refl s).tallied

theorem quiet_holdLimit (limit : Byte) : Quiet s (s.onPort p fun q => { q with holdLimit := limit }) :=
  quiet_setPort (PortCtl.SameBindings.counted ⟨rfl, rfl, rfl, rfl, rfl⟩)

theorem countsKept_segmentConfig : CountsKept s (execSegmentConfig p t s) := by
  unfold execSegmentConfig
  split
  · exact countsKept_finish (tallied_takeSegmentConfig s _ _) p t
  · exact countsKept_unchanged s

theorem countsKept_enable : CountsKept s (execEnable p t s) := by
  unfold execEnable
  split
  · exact countsKept_finish ((quiet_onSegment s _ _).tallied) p t
  · exact countsKept_unchanged s

theorem countsKept_disable : CountsKept s (execDisable p t s) := by
  unfold execDisable
  split
  · exact countsKept_finish ((quiet_onSegment s _ _).tallied) p t
  · exact countsKept_unchanged s

theorem countsKept_recover : CountsKept s (execRecover p t s) := by
  unfold execRecover
  split
  · exact countsKept_finish ((quiet_onSegment s _ _).tallied) p t
  · exact countsKept_unchanged s

theorem countsKept_portConfig : CountsKept s (execPortConfig p t s) := by
  unfold execPortConfig
  split
  · exact countsKept_finish ((quiet_holdLimit s _ _).tallied) p t
  · exact countsKept_unchanged s

theorem quiet_globalConfig (mask idle : Byte) : Quiet s { s.withAlertMask mask with idleLimit := idle } :=
  quiet_of_ports rfl rfl

theorem quiet_clearKinds (mask : Byte) : Quiet s (s.clearKinds mask) := quiet_of_ports rfl rfl

theorem countsKept_globalConfig : CountsKept s (execGlobalConfig p t s) := by
  unfold execGlobalConfig
  split
  · exact countsKept_finish ((quiet_globalConfig s _ _).tallied) p t
  · exact countsKept_unchanged s

theorem countsKept_clearNotices : CountsKept s (execClearNotices p t s) := by
  unfold execClearNotices
  split
  · exact countsKept_finish ((quiet_clearKinds s _).tallied) p t
  · exact countsKept_unchanged s

end

theorem countsKept_exec (c : Instr) {s : State} (ports : portsOk s) (table : TableOk s) : CountsKept s (exec c s) := by
  cases c with
  | deviceReset straps => exact countsKept_deviceReset s straps
  | upstreamStart p => exact countsKept_onPort (PortCtl.takeStartCondition_counted _)
  | upstreamStop p => exact countsKept_onPort (PortCtl.takeStop_counted _)
  | upstreamRestart p => exact countsKept_onPort (PortCtl.takeStartCondition_counted _)
  | addressByte p a d => exact countsKept_onPortMiss (PortCtl.takeFirstByte_counted (ports p) _ _)
  | prefixWrite p h => exact countsKept_onPortMiss (PortCtl.takeFirstByte_counted (ports p) _ _)
  | prefixRead p h => exact countsKept_onPortMiss (PortCtl.takeFirstByte_counted (ports p) _ _)
  | lowByte p b => exact countsKept_onPortMiss (PortCtl.takeLowByte_counted (ports p) _ _)
  | lookup p => exact countsKept_lookup s p
  | prefixTest p => exact countsKept_prefixTest s p
  | lookupOutcome p => exact countsKept_lookupOutcome s p
  | prefixOutcome p => exact countsKept_prefixOutcome s p
  | unbind p => exact countsKept_unbind s p table
  | acceptanceReport p => exact countsKept_acceptanceReport s p
  | refusalReport p => exact countsKept_refusalReport s p
  | leaseExpiry k => exact countsKept_leaseExpiry s k
  | idleExpiry => exact countsKept_idleExpiry s
  | holdExpiry p => exact countsKept_holdExpiry s p
  | commandByte p b => exact countsKept_onPort (PortCtl.takeCommandByte_counted _ b)
  | responseByte p => exact countsKept_onPort (PortCtl.takeResponseByte_counted _ _)
  | writeDataByte p b => exact countsKept_onPort (PortCtl.takeWriteByte_counted _ _ b)
  | readDataByte p => exact countsKept_onPort (PortCtl.takeReadClock_counted _ _)
  | hostAcknowledge p ack => exact countsKept_onPort (PortCtl.takeHostAck_counted _ ack)
  | absorbByte p d => exact countsKept_onPort (PortCtl.takeAbsorbByte_counted _ d)
  | endingByte p => exact countsKept_onPort (PortCtl.takeEndingByte_counted _)
  | grantTaken p g => exact countsKept_grantTaken s p g
  | refusalTaken p g => exact countsKept_refusalTaken s p g
  | addressAck p g => exact countsKept_addressAck s p g
  | addressNack p g => exact countsKept_addressNack s p g
  | writeByteResult p g => exact countsKept_writeByteResult s p g
  | readByteResult p g => exact countsKept_readByteResult s p g
  | ackBitDone p g => exact countsKept_ackBitDone s p g
  | lost p g => exact countsKept_lost s p g
  | fault p g => exact countsKept_fault s p g
  | cancelled p g => exact countsKept_cancelled s p g
  | segmentRequest p => exact countsKept_segmentRequest s p
  | withdrawal p => exact countsKept_withdrawal s p
  | release p => exact countsKept_release s p
  | ask p => exact countsKept_ask s p
  | startCondition g => exact countsKept_startCondition s g
  | addressEnd g acks => exact countsKept_onSegment s g _
  | writeByteEnd g ack => exact countsKept_onSegment s g _
  | readByteEnd g b => exact countsKept_onSegment s g _
  | ackBitEnd g => exact countsKept_onSegment s g _
  | stopEnd g => exact countsKept_onSegment s g _
  | arbitrationLossAddress g => exact countsKept_onSegment s g _
  | arbitrationLoss g => exact countsKept_onSegment s g _
  | clockLowExpiry g => exact countsKept_clockLowExpiry s g
  | clearCheck g dscl dsda => exact countsKept_onSegment s g _
  | handOver p => exact countsKept_handOver s p
  | executionComplete p issuer => exact countsKept_executionComplete s p ports issuer
  | stage p t => exact countsKept_stage s p t
  | unstage p t => exact countsKept_unstage s p t
  | mark p t => exact countsKept_mark s p t
  | unmark p t => exact countsKept_unmark s p t
  | commit p t => exact countsKept_commit s p t table
  | abandon p t => exact countsKept_abandon s p t
  | renew p t => exact countsKept_renew s p t
  | revive p t => exact countsKept_revive s p t
  | readRecord p t => exact countsKept_readRecord s p t
  | probe p t => exact countsKept_probe s p t
  | readStatus p t => exact countsKept_readStatus s p t
  | readSegment p t => exact countsKept_readSegment s p t
  | readNotices p t => exact countsKept_readNotices s p t
  | segmentConfig p t => exact countsKept_segmentConfig s p t
  | enable p t => exact countsKept_enable s p t
  | disable p t => exact countsKept_disable s p t
  | recover p t => exact countsKept_recover s p t
  | portConfig p t => exact countsKept_portConfig s p t
  | globalConfig p t => exact countsKept_globalConfig s p t
  | clearNotices p t => exact countsKept_clearNotices s p t
  | restart p straps whole => exact countsKept_restart s p straps whole

/-! ### What the counts bound -/

theorem claims_count_le_one {s : State} (h : countsOk s) (p : Port) (c : SlotIx × BitVec 8) :
    (s.port p).claims.count c ≤ 1 :=
  List.count_le_length.trans (h.1 p).single

/-- A slot with a message or a context bound to it is claimed by a port (R19). -/
theorem claimed_of_inflight {s : State} (h : countsOk s) {k : SlotIx} (bound : 1 ≤ (s.slot k).inflight) :
    ∃ p, (k, (s.slot k).gen) ∈ (s.port p).claims := by
  have counts := h.2 k
  rw [State.claimsOn] at counts
  by_cases first : (k, (s.slot k).gen) ∈ (s.port .u0).claims
  · exact ⟨.u0, first⟩
  · refine ⟨.u1, List.count_pos_iff.mp ?_⟩
    rw [List.count_eq_zero.mpr first] at counts
    omega

/-- A port claims one slot at most (R19, R22). -/
theorem claimed_slot_unique {s : State} (h : countsOk s) {p : Port} {c d : SlotIx × BitVec 8}
    (hc : c ∈ (s.port p).claims) (hd : d ∈ (s.port p).claims) : c = d := by
  have single := (h.1 p).single
  match claims : (s.port p).claims with
  | [] => rw [claims] at hc; cases hc
  | [e] =>
    rw [claims, List.mem_singleton] at hc hd
    rw [hc, hd]
  | _ :: _ :: _ => rw [claims, List.length_cons, List.length_cons] at single; omega

theorem inflight_le_two {s : State} (h : countsOk s) (k : SlotIx) : (s.slot k).inflight ≤ 2 := by
  have counts := h.2 k
  have u0 := claims_count_le_one h .u0 (k, (s.slot k).gen)
  have u1 := claims_count_le_one h .u1 (k, (s.slot k).gen)
  rw [State.claimsOn] at counts
  omega

theorem draining_inflight {x : Slot} (ok : slotOk x) (draining : x.state = .draining) : 1 ≤ x.inflight := by
  simp only [slotOk, draining] at ok
  obtain ⟨_, -, -, -, bound, -⟩ := ok
  exact bound

/-- Of three DRAINING slots, each claimed by one of the two ports, two are the same (R146). -/
theorem two_draining {s : State} (h : countsOk s) (table : TableOk s) {i j k : SlotIx}
    (hi : (s.slot i).state = .draining) (hj : (s.slot j).state = .draining) (hk : (s.slot k).state = .draining) :
    i = j ∨ i = k ∨ j = k := by
  have claimed : ∀ {x}, (s.slot x).state = .draining → ∃ p, (x, (s.slot x).gen) ∈ (s.port p).claims := fun {x} hx =>
    claimed_of_inflight h (draining_inflight (table.slots x) hx)
  obtain ⟨p, ip⟩ := claimed hi
  obtain ⟨q, jq⟩ := claimed hj
  obtain ⟨r, kr⟩ := claimed hk
  have same : ∀ {x y : SlotIx} {p q : Port}, p = q → (x, (s.slot x).gen) ∈ (s.port p).claims →
      (y, (s.slot y).gen) ∈ (s.port q).claims → x = y := fun e hx hy =>
    (Prod.mk.inj (claimed_slot_unique h hx (e ▸ hy))).1
  have ports : p = q ∨ p = r ∨ q = r := by cases p <;> cases q <;> cases r <;> decide
  exact ports.imp (fun e => same e ip jq) (Or.imp (fun e => same e ip kr) fun e => same e jq kr)

/-! ### Every step -/

theorem keepsCounts_step {s t : State} (ports : portsOk s) (table : TableOk s) (h : step s = .next t) : KeepsCounts s t := by
  cases queue : s.pending with
  | nil =>
    obtain rfl : s.tick = t := by simpa [step_of_empty queue] using h
    exact (quiet_of_ports rfl rfl : Quiet s s.tick).keepsCounts
  | cons c rest =>
    have dequeued := keeps_pending s rest
    obtain ⟨u, answers, kept⟩ := countsKept_exec c (dequeued.ports ports) (dequeued.table table)
    obtain rfl : u = t := by simpa [step_of_front queue, answers] using h
    exact ⟨kept.within, kept.exact⟩

/-- Settles O57: an event keeps the claims of both ports and the counts of the slots, or changes a claim and its slot's count
together; two ports with a claim each bound the counts and the DRAINING slots. -/
theorem everyStepKeepsTheInFlightCounts : Obligations.EveryStepKeepsTheInFlightCounts :=
  ⟨fun _ _ ports table counts h => (keepsCounts_step ports table h).within counts,
    fun _ _ ports table counts equal fresh h => (keepsCounts_step ports table h).exact counts equal fresh,
    fun _ counts k => inflight_le_two counts k,
    fun _ counts table _ _ _ hi hj hk => two_draining counts table hi hj hk⟩

end Sys2Proof.Machine
end

section
/-! Bus conditions and address bytes at a port (3.3 to 3.5): a Restart, a Stop phase by phase, what an address byte is judged
as, and the interpreter wait that keeps it. -/

namespace Sys2Proof.Machine

/-! ### A sound context -/

namespace PortOk

variable {q : PortCtl}

theorem shown_eq_false (h : PortOk q) (notRead : q.phase ≠ .read) : q.shown = false := by
  by_contra shown
  simpa [h.fetched notRead] using (h.shown (by simpa using shown)).1

theorem link_ne_queued (h : PortOk q) (notWaiting : q.phase ≠ .waitGrant) (g : SegIx) : q.link ≠ .queued g := fun e =>
  notWaiting (h.queued.mpr ⟨g, e⟩)

end PortOk

namespace PortCtl

variable {q : PortCtl}

/-! ### What ends an address phase or a transaction (R47, R70) -/

/-- The segment released and the binding given up, in whichever phase the context is left (R47, R63). -/
theorem released_toPhase_eq_ended (notQueued : ∀ g, q.link ≠ .queued g) (ph : Phase) :
    q.releaseSegment.giveUpBinding.toPhase ph = q.ended ph := by
  rw [giveUpBinding_eq]
  cases link : q.link with
  | none => simp [releaseSegment, link, toPhase, dropFetched, ended, releaseSent]
  | queued g => exact absurd link (notQueued g)
  | owned g => simp [releaseSegment_of_owned link, toPhase, dropFetched, ended, link, releaseSent]

/-- What the context carries is given up and its host answered NACK (R49, R51, R60, R61). -/
theorem refuseCarried_eq (notQueued : ∀ g, q.link ≠ .queued g) :
    q.refuseCarried = { q.ended .unaddressed with hold := none, lastAnswer := some .nack } := by
  rw [← released_toPhase_eq_ended notQueued]
  rfl

theorem frameEnd_eq_frameEnded (q : PortCtl) : q.frameEnd = q.frameEnded := by
  unfold frameEnd
  dsimp only
  rw [giveUpBinding_eq]
  cases frame : q.frame <;> simp [frameEnded, frame]

/-! ### Bus conditions (3.3) -/

theorem takeStartCondition_of_active (active : q.phase ≠ .idle) (free : q.hold = none) :
    q.takeStartCondition = q.takeRestart := by
  unfold takeStartCondition
  rw [if_neg (by simp [free])]
  split
  case h_1 idle => exact absurd idle active
  all_goals rfl

theorem takeRestart_of_command (command : q.phase = .command) : q.takeRestart = q.frameEnded.newAddressPhase := by
  rw [takeRestart, command, frameEnd_eq_frameEnded]

theorem takeRestart_of_not_command (other : q.phase ≠ .command) : q.takeRestart = q.newAddressPhase := by
  unfold takeRestart
  split
  case h_1 command => exact absurd command other
  all_goals rfl

/-- A Stop seen outside IDLE without a hold: what the phase gives up, then IDLE (R47). -/
theorem takeStop_of_active (active : q.phase ≠ .idle) (free : q.hold = none) :
    q.takeStop = { q.giveUpAtStop.toPhase .idle with tenBit := none, count := 0, declared := none } := by
  unfold takeStop
  rw [if_neg (by simp [free])]
  split
  case h_1 idle => exact absurd idle active
  all_goals rfl

theorem takeStop_of_idle (idle : q.phase = .idle) : q.takeStop = q := by
  simp [takeStop, idle]

theorem giveUpAtStop_of_transaction (phase : q.phase ∈ [Phase.write, .read, .ending, .address, .tenLow]) :
    q.giveUpAtStop = q.releaseSegment.giveUpBinding := by
  unfold giveUpAtStop
  split <;> simp_all

/-- In a phase without a segment and without a fetched byte, leaving it for IDLE changes the phase alone (R95). -/
theorem toPhase_of_unfetched (fetched : q.fetched = none) (shown : q.shown = false) (ph : Phase) :
    q.toPhase ph = { q with phase := ph } := by
  simp [toPhase, dropFetched, ← fetched, ← shown]

end PortCtl

theorem exec_upstreamRestart (p : Port) (s : State) :
    exec (.upstreamRestart p) s = .next (s.setPort p (s.port p).takeStartCondition) := rfl

theorem exec_upstreamStop (p : Port) (s : State) : exec (.upstreamStop p) s = .next (s.setPort p (s.port p).takeStop) := rfl

/-- Settles O6: outside IDLE the condition is a Restart, with frame end before it in COMMAND. -/
theorem upstreamRestartKeepsWhatTheContextCarries : Obligations.UpstreamRestartKeepsWhatTheContextCarries := by
  intro s p active free
  refine ⟨fun other => ?_, fun command => ?_, rfl⟩
  · rw [exec_upstreamRestart, PortCtl.takeStartCondition_of_active active free, PortCtl.takeRestart_of_not_command other]
    rfl
  · rw [exec_upstreamRestart, PortCtl.takeStartCondition_of_active active free, PortCtl.takeRestart_of_command command]
    rfl

/-- Settles O7, phase by phase: what the phase gives up, then IDLE; outside READ there is no fetched byte to discard. -/
theorem upstreamStopEndsTheTransaction : Obligations.UpstreamStopEndsTheTransaction := by
  intro s p h free
  have unfetched : (s.port p).phase ≠ .read → (s.port p).fetched = none ∧ (s.port p).shown = false := fun notRead =>
    ⟨h.fetched notRead, h.shown_eq_false notRead⟩
  rw [exec_upstreamStop]
  refine ⟨fun transaction => ?_, fun command => ?_, fun response => ?_, fun rest => ?_, fun idle => ?_⟩
  · have active : (s.port p).phase ≠ .idle := by rintro e; simp [e] at transaction
    have notWaiting : (s.port p).phase ≠ .waitGrant := by rintro e; simp [e] at transaction
    rw [PortCtl.takeStop_of_active active free, PortCtl.giveUpAtStop_of_transaction transaction,
      PortCtl.released_toPhase_eq_ended (h.link_ne_queued notWaiting)]
    rfl
  · obtain ⟨fetched, shown⟩ := unfetched (by simp [command])
    have ended : (s.port p).giveUpAtStop = (s.port p).frameEnded := by
      rw [PortCtl.giveUpAtStop, command, PortCtl.frameEnd_eq_frameEnded]
    rw [PortCtl.takeStop_of_active (by simp [command]) free, ended,
      PortCtl.toPhase_of_unfetched (q := (s.port p).frameEnded) fetched shown]
    rfl
  · obtain ⟨fetched, shown⟩ := unfetched (by simp [response])
    have ended : (s.port p).giveUpAtStop = { s.port p with
        bound := none, tenBit := none, toTable := (s.port p).toTable ++ unbindSent (s.port p).bound } := by
      simp [PortCtl.giveUpAtStop, response, PortCtl.giveUpBinding_eq]
    rw [PortCtl.takeStop_of_active (by simp [response]) free, ended,
      PortCtl.toPhase_of_unfetched (q := { s.port p with
        bound := none, tenBit := none, toTable := (s.port p).toTable ++ unbindSent (s.port p).bound }) fetched shown]
  · have kept : (s.port p).giveUpAtStop = s.port p := by rcases rest with e | e <;> rw [PortCtl.giveUpAtStop, e]
    obtain ⟨fetched, shown⟩ := unfetched (by rcases rest with e | e <;> simp [e])
    have active : (s.port p).phase ≠ .idle := by rcases rest with e | e <;> simp [e]
    rw [PortCtl.takeStop_of_active active free, kept, PortCtl.toPhase_of_unfetched fetched shown]
  · rw [PortCtl.takeStop_of_idle idle, State.setPort_port]

/-! ### The bits of an address byte (R49) -/

namespace PortCtl

theorem isPrefixByte_sevenBit (a : BitVec 7) (d : Direction) :
    isPrefixByte (a ++ Segment.directionBit d) = isPrefixAddress a := by
  cases d <;> revert a <;> decide

theorem directionOf_sevenBit (a : BitVec 7) (d : Direction) : directionOf (a ++ Segment.directionBit d) = d := by
  cases d <;> revert a <;> decide

theorem address_sevenBit (a : BitVec 7) (d : Direction) : (a ++ Segment.directionBit d).extractLsb' 1 7 = a := by
  cases d <;> revert a <;> decide

theorem isPrefixByte_prefix (h : BitVec 2) (d : Direction) :
    isPrefixByte (0b11110#5 ++ h ++ Segment.directionBit d) = true := by
  cases d <;> revert h <;> decide

theorem directionOf_prefix (h : BitVec 2) (d : Direction) :
    directionOf (0b11110#5 ++ h ++ Segment.directionBit d) = d := by
  cases d <;> revert h <;> decide

theorem highBits_prefix (h : BitVec 2) (d : Direction) : highBits (0b11110#5 ++ h ++ Segment.directionBit d) = h := by
  cases d <;> revert h <;> decide

/-! ### What an address byte is judged as (3.4, 3.5) -/

variable {q : PortCtl}

theorem judgeAddressByte_sevenBit (address : q.phase = .address) {a : BitVec 7} (plain : isPrefixAddress a = false)
    (d : Direction) : q.judgeAddressByte (a ++ Segment.directionBit d) = (sevenBitJudged q a d, false) := by
  have judged : q.judgeSevenBit (a ++ Segment.directionBit d) = sevenBitJudged q a d := by
    rw [judgeSevenBit, giveUpBinding_eq, directionOf_sevenBit, address_sevenBit]
    rfl
  simp [judgeAddressByte, address, isPrefixByte_sevenBit, plain, judged]

theorem judgeAddressByte_prefixWrite (address : q.phase = .address) (h : BitVec 2) :
    q.judgeAddressByte (0b11110#5 ++ h ++ Segment.directionBit .write) = (prefixWriteJudged q h, false) := by
  have judged : q.judgePrefixWrite (0b11110#5 ++ h ++ Segment.directionBit .write) = prefixWriteJudged q h := by
    rw [judgePrefixWrite, highBits_prefix]
    rfl
  simp [judgeAddressByte, address, isPrefixByte_prefix, directionOf_prefix, judged]

theorem judgeAddressByte_lowByte (tenLow : q.phase = .tenLow) (b : Byte) :
    q.judgeAddressByte b = (lowByteJudged q b, false) := by
  have judged : q.judgeLowByte b = lowByteJudged q b := by
    rw [judgeLowByte, giveUpBinding_eq]
    rfl
  simp [judgeAddressByte, tenLow, judged]

theorem judgeAddressByte_prefixRead (address : q.phase = .address) (h : BitVec 2) :
    q.judgeAddressByte (0b11110#5 ++ h ++ Segment.directionBit .read) =
      q.judgePrefixRead (0b11110#5 ++ h ++ Segment.directionBit .read) := by
  simp [judgeAddressByte, address, isPrefixByte_prefix, directionOf_prefix]

theorem continuesMemory_of_memory {m : TenBit} (memory : q.tenBit = some m) (h : BitVec 2) :
    q.continuesMemory h = (m.addr.extractLsb' 8 2 == h) := by
  simp [continuesMemory, memory]

theorem continuesMemory_eq_false {h : BitVec 2} (other : ∀ m, q.tenBit = some m → m.addr.extractLsb' 8 2 ≠ h) :
    q.continuesMemory h = false := by
  cases memory : q.tenBit with
  | none => simp [continuesMemory, memory]
  | some m => simpa [continuesMemory, memory] using other m memory

theorem refuseCarried_directed (notQueued : ∀ g, q.link ≠ .queued g) :
    ({ q with direction := some .read } : PortCtl).refuseCarried = prefixReadRefused q :=
  refuseCarried_eq (q := { q with direction := some .read }) notQueued

/-- A high part with read that continues the memory of a route to a segment which may be read (R60). -/
theorem judgePrefixRead_continued (fetched : q.fetched = none) (shown : q.shown = false) {m : TenBit} {b : Binding}
    {g : SegIx} {w : Width} {a : Addr} {h : BitVec 2} (memory : q.tenBit = some m) (high : m.addr.extractLsb' 8 2 = h)
    (bound : q.bound = some b) (dest : b.snap.dest = .segment g w a) (readable : b.snap.access ≠ .write) :
    q.judgePrefixRead (0b11110#5 ++ h ++ Segment.directionBit .read) = (prefixReadContinued q g w a, false) := by
  have allowed : readAllowed b.snap = true := by cases e : b.snap.access <;> simp_all [readAllowed]
  simp only [judgePrefixRead, bound, dest, highBits_prefix, continuesMemory_of_memory memory, high, beq_self_eq_true,
    allowed, if_true, prefixReadContinued, ownedSegment]
  cases link : q.link with
  | owned o =>
    simp [askAddress, askSegment, sendSegment, toPhase, dropFetched, ← fetched, ← shown]
  | queued _ | none => simp [requestSegment, sendSegment, toPhase, dropFetched, ← fetched, ← shown]

/-- A high part with read that continues the memory of a route which may not be read (R60). -/
theorem judgePrefixRead_unreadable (notQueued : ∀ g, q.link ≠ .queued g) {m : TenBit} {b : Binding}
    {g : SegIx} {w : Width} {a : Addr} {h : BitVec 2} (memory : q.tenBit = some m) (high : m.addr.extractLsb' 8 2 = h)
    (bound : q.bound = some b) (dest : b.snap.dest = .segment g w a) (writeOnly : b.snap.access = .write) :
    q.judgePrefixRead (0b11110#5 ++ h ++ Segment.directionBit .read) = (prefixReadRefused q, false) := by
  simp only [judgePrefixRead, refuseCarried_directed notQueued]
  simp [bound, dest, highBits_prefix, continuesMemory_of_memory memory, high, readAllowed, writeOnly]

/-- A high part with read that continues no memory is refused with MISS (R61). -/
theorem judgePrefixRead_missed (notQueued : ∀ g, q.link ≠ .queued g) {h : BitVec 2}
    (other : ∀ m, q.tenBit = some m → m.addr.extractLsb' 8 2 ≠ h) :
    q.judgePrefixRead (0b11110#5 ++ h ++ Segment.directionBit .read) = (prefixReadRefused q, true) := by
  unfold judgePrefixRead
  simp only [highBits_prefix, continuesMemory_eq_false other, refuseCarried_directed notQueued]
  split
  · split <;> rfl
  · rfl

/-! ### Where an address byte arrives -/

theorem takeFirstByte_of_free (address : q.phase = .address) (free : q.hold = none) (now : Nat) (b : Byte) :
    q.takeFirstByte now b = q.takeAddressByte now b := if_pos ⟨address, free⟩

theorem takeLowByte_of_free (tenLow : q.phase = .tenLow) (free : q.hold = none) (now : Nat) (b : Byte) :
    q.takeLowByte now b = q.takeAddressByte now b := if_pos ⟨tenLow, free⟩

theorem takeAddressByte_of_waiting (wait : (q.ownWait || q.restartWait) = true) (now : Nat) (b : Byte) :
    q.takeAddressByte now b = ({ q with hold := some (holdDeadline now q), held := some b }, false) := if_pos wait

theorem takeAddressByte_of_clear (own : q.ownWait = false) (restart : q.restartWait = false) (now : Nat) (b : Byte) :
    q.takeAddressByte now b = ({ q with hold := some (holdDeadline now q) } : PortCtl).judgeAddressByte b :=
  if_neg (by simp [waiting, own, restart])

end PortCtl

/-! ### The commands -/

theorem State.onPortMiss_quiet (s : State) (p : Port) (q : PortCtl) : s.onPortMiss p (q, false) = s.setPort p q := rfl

theorem State.onPortMiss_missed (s : State) (p : Port) (q : PortCtl) :
    s.onPortMiss p (q, true) = (s.setPort p q).raise (.miss p) := rfl

section

variable {s : State} {p : Port}

/-- The three rows of a first byte, and the row of a low byte, while SCL is not held. -/
theorem exec_addressByte_of_free (address : (s.port p).phase = .address) (free : (s.port p).hold = none) (a : BitVec 7)
    (d : Direction) : exec (.addressByte p a d) s =
      .next (s.onPortMiss p ((s.port p).takeAddressByte s.now (a ++ Segment.directionBit d))) := by
  rw [← PortCtl.takeFirstByte_of_free address free]; rfl

theorem exec_prefixWrite_of_free (address : (s.port p).phase = .address) (free : (s.port p).hold = none) (h : BitVec 2) :
    exec (.prefixWrite p h) s =
      .next (s.onPortMiss p ((s.port p).takeAddressByte s.now (0b11110#5 ++ h ++ Segment.directionBit .write))) := by
  rw [← PortCtl.takeFirstByte_of_free address free]; rfl

theorem exec_prefixRead_of_free (address : (s.port p).phase = .address) (free : (s.port p).hold = none) (h : BitVec 2) :
    exec (.prefixRead p h) s =
      .next (s.onPortMiss p ((s.port p).takeAddressByte s.now (0b11110#5 ++ h ++ Segment.directionBit .read))) := by
  rw [← PortCtl.takeFirstByte_of_free address free]; rfl

theorem exec_lowByte_of_free (tenLow : (s.port p).phase = .tenLow) (free : (s.port p).hold = none) (b : Byte) :
    exec (.lowByte p b) s = .next (s.onPortMiss p ((s.port p).takeAddressByte s.now b)) := by
  rw [← PortCtl.takeLowByte_of_free tenLow free]; rfl

end

/-- Settles O8: with no wait set the byte is judged in its own event, under a hold. -/
theorem addressBytesArePresentedToTheTable : Obligations.AddressBytesArePresentedToTheTable := by
  intro s p free own restart c
  refine ⟨fun a d address plain => ?_, fun b tenLow => ?_, fun h address => ?_⟩
  · rw [exec_addressByte_of_free address free, PortCtl.takeAddressByte_of_clear own restart,
      PortCtl.judgeAddressByte_sevenBit (q := c) address plain]
    rfl
  · rw [exec_lowByte_of_free tenLow free, PortCtl.takeAddressByte_of_clear own restart,
      PortCtl.judgeAddressByte_lowByte (q := c) tenLow]
    rfl
  · rw [exec_prefixWrite_of_free address free, PortCtl.takeAddressByte_of_clear own restart,
      PortCtl.judgeAddressByte_prefixWrite (q := c) address]
    rfl

/-- Settles O9: the memory continued, on the owned segment or by a request; unreadable; or another, refused with MISS. -/
theorem prefixReadContinuesTheMemoryOrIsRefused : Obligations.PrefixReadContinuesTheMemoryOrIsRefused := by
  refine ⟨fun s p h ok address free own restart => ?_, fun s t p idle free answers => ?_⟩
  · intro c
    have notQueued : ∀ g, c.link ≠ .queued g := ok.link_ne_queued (by simp [address])
    have fetched : c.fetched = none := ok.fetched (by simp [address])
    have shown : c.shown = false := ok.shown_eq_false (by simp [address])
    rw [exec_prefixRead_of_free address free, PortCtl.takeAddressByte_of_clear own restart,
      PortCtl.judgeAddressByte_prefixRead (q := c) address]
    refine ⟨fun m b g w a memory high bound dest => ⟨fun readable => ?_, fun writeOnly => ?_⟩, fun other => ?_⟩
    · rw [PortCtl.judgePrefixRead_continued fetched shown memory high bound dest readable, State.onPortMiss_quiet]
    · rw [PortCtl.judgePrefixRead_unreadable notQueued memory high bound dest writeOnly, State.onPortMiss_quiet]
    · rw [PortCtl.judgePrefixRead_missed notQueued other, State.onPortMiss_missed]
  · rw [exec_upstreamStart, PortCtl.takeStartCondition_of_idle idle free] at answers
    obtain rfl := Host.Outcome.next.inj answers
    rw [State.port_setPort_same]
    rfl

/-! ### The interpreter wait (R70, R72) -/

namespace PortCtl

variable {q : PortCtl}

theorem judgeHeld_of_kept (h : q.held = none ∨ q.ownWait = true ∨ q.restartWait = true) : q.judgeHeld = (q, false) := by
  unfold judgeHeld
  split
  next b held =>
    have wait : q.waiting = true := by
      obtain e | e | e := h
      · simp [held] at e
      · simp [waiting, e]
      · simp [waiting, e]
    rw [if_pos wait]
  next => rfl

theorem judgeHeld_of_clear {b : Byte} (held : q.held = some b) (own : q.ownWait = false) (restart : q.restartWait = false) :
    q.judgeHeld = ({ q with held := none } : PortCtl).judgeAddressByte b := by
  simp [judgeHeld, held, waiting, own, restart]

end PortCtl

theorem waitingResult_eq_some {s : State} {p : Port} {e : Execution} {r : Result}
    (execution : (s.interpOf p).execution = some e) (replying : e.progress = .replying r) :
    s.waitingResult p = some r := by
  simp [State.waitingResult, execution, replying]

theorem waitingResult_eq_none {s : State} {p : Port}
    (none : ∀ e r, (s.interpOf p).execution = some e → e.progress ≠ .replying r) : s.waitingResult p = .none := by
  unfold State.waitingResult
  split
  next e execution =>
    split
    next r replying => exact absurd replying (none e r execution)
    all_goals rfl
  next => rfl

theorem writeWaiting_of_none {s : State} {p : Port}
    (none : ∀ e r, (s.interpOf p).execution = some e → e.progress ≠ .replying r) : s.writeWaiting p = s := by
  simp [State.writeWaiting, waitingResult_eq_none none]

/-- A response is written as status, payload length and payload (R181, R186). -/
theorem responseBytes_formResponse (s : State) (r : Result) :
    responseBytes (s.formResponse r).1 (s.formResponse r).2 = bufferFor s r := by
  cases r with
  | done st payload => rfl
  | statusPart items => simp [State.formResponse, responseBytes, bufferFor, statusCode]

theorem writeResponse_eq (s : State) (p : Port) (r : Result) :
    s.writeResponse p r = (s.setInterp p { buffer := bufferFor s r, execution := none }).setPort p
      { s.port p with ownDone := true } := by
  rw [State.writeResponse, responseBytes_formResponse]
  rfl

/-- The event of a completion leaves `u`, then judges the address byte kept (R70, R72, R177, R194). -/
theorem exec_of_takesCompletion {s u : State} {p : Port} {c : Instr} (taken : takesCompletion s p c u) :
    exec c s = .next (u.onPortMiss p (u.port p).judgeHeld) := by
  obtain ⟨rfl, noReply, done, rfl⟩ | ⟨rfl, e, r, execution, replying, rfl⟩ | ⟨rfl, done, rfl⟩ := taken
  · show execExecutionComplete p p s = _
    rw [execExecutionComplete, if_pos rfl, writeWaiting_of_none noReply, PortCtl.takeOwnDone, if_pos done]
    simp [State.onPortMiss, State.setPort_setPort]
  · show execExecutionComplete p p s = _
    have written : s.writeWaiting p = s.writeResponse p r := by
      simp [State.writeWaiting, waitingResult_eq_some execution replying]
    rw [execExecutionComplete, if_pos rfl, written, writeResponse_eq]
    simp [State.onPortMiss, State.setPort_setPort, PortCtl.takeOwnDone]
  · show execExecutionComplete p (otherPort p) s = _
    have other : otherPort p ≠ p := by cases p <;> decide
    rw [execExecutionComplete, if_neg other, PortCtl.takeRestartDone, if_pos done]
    simp [State.onPortMiss, State.setPort_setPort]

/-- A completion changes the waits of its port's context and nothing else of it (R70, R72). -/
theorem portOk_of_takesCompletion {s u : State} {p : Port} {c : Instr} (ok : PortOk (s.port p))
    (taken : takesCompletion s p c u) : PortOk (u.port p) := by
  obtain ⟨-, -, -, rfl⟩ | ⟨-, _, _, -, -, rfl⟩ | ⟨-, -, rfl⟩ := taken <;> rw [State.port_setPort_same]
  · exact PortCtl.ok_waits ok _ _ _ _ _
  · exact PortCtl.ok_waits ok _ _ _ _ _
  · exact PortCtl.ok_waits ok _ _ _ _ _

/-- Settles O10: a byte that comes while a condition is set is kept; the completion that clears the last one judges it. -/
theorem interpreterWaitHoldsTheAddressByte : Obligations.InterpreterWaitHoldsTheAddressByte := by
  refine ⟨fun s p free wait => ?_, fun s u p c ok taken => ?_⟩
  · intro keeping
    refine ⟨fun address => ⟨fun a d => ?_, fun h => ?_, fun h => ?_⟩, fun tenLow b => ?_⟩
    · rw [exec_addressByte_of_free address free, PortCtl.takeAddressByte_of_waiting wait]; rfl
    · rw [exec_prefixWrite_of_free address free, PortCtl.takeAddressByte_of_waiting wait]; rfl
    · rw [exec_prefixRead_of_free address free, PortCtl.takeAddressByte_of_waiting wait]; rfl
    · rw [exec_lowByte_of_free tenLow free, PortCtl.takeAddressByte_of_waiting wait]; rfl
  · intro q
    have oku := portOk_of_takesCompletion ok taken
    rw [exec_of_takesCompletion taken]
    refine ⟨fun kept => ?_, fun own restart address => ⟨fun a d plain held => ?_, fun h held => ?_, fun h held => ?_⟩,
      fun b own restart tenLow held => ?_⟩
    · rw [PortCtl.judgeHeld_of_kept kept, State.onPortMiss_quiet, State.setPort_port]
    · rw [PortCtl.judgeHeld_of_clear held own restart, PortCtl.judgeAddressByte_sevenBit (q := q) address plain]; rfl
    · rw [PortCtl.judgeHeld_of_clear held own restart]
      exact congrArg (fun r => Host.Outcome.next (u.onPortMiss p r)) (PortCtl.judgeAddressByte_prefixWrite (q := q) address h)
    · have notQueued : ∀ g, q.link ≠ .queued g := oku.link_ne_queued (by rw [show (u.port p).phase = _ from address]; decide)
      have fetched : q.fetched = none := oku.fetched (by rw [show (u.port p).phase = _ from address]; decide)
      have shown : q.shown = false := oku.shown_eq_false (by rw [show (u.port p).phase = _ from address]; decide)
      have judged : (u.port p).judgeHeld = q.judgePrefixRead (0b11110#5 ++ h ++ Segment.directionBit .read) :=
        (PortCtl.judgeHeld_of_clear held own restart).trans (PortCtl.judgeAddressByte_prefixRead (q := q) address h)
      rw [judged]
      refine ⟨fun m b g w a memory high bound dest => ⟨fun readable => ?_, fun writeOnly => ?_⟩, fun other => ?_⟩
      · rw [PortCtl.judgePrefixRead_continued fetched shown memory high bound dest readable, State.onPortMiss_quiet]
      · rw [PortCtl.judgePrefixRead_unreadable notQueued memory high bound dest writeOnly, State.onPortMiss_quiet]
      · rw [PortCtl.judgePrefixRead_missed notQueued other, State.onPortMiss_missed]
    · rw [PortCtl.judgeHeld_of_clear held own restart, PortCtl.judgeAddressByte_lowByte (q := q) tenLow]; rfl

end Sys2Proof.Machine
end

section
/-! The table manager's answers (02): the judgement of a lookup's winner, what a lookup taken answers and binds, and the
PREFIX_TEST. -/

namespace Sys2Proof.Machine

/-! ### The judgement of the winner (R30, R31) -/

namespace Record

/-- The directions that an access does not carry (R9). -/
theorem allows_eq_false_iff (r : Record) (d : Direction) :
    r.allows d = false ↔ (r.access = .read ∧ d = .write) ∨ (r.access = .write ∧ d = .read) := by
  cases access : r.access <;> cases d <;> simp [allows, access]

/-- A threshold is carried by a route to a segment only (R16). -/
theorem target_segment_of_threshold {r : Record} (h : r.valid) {t : BitVec 4} (threshold : r.threshold = some t) :
    ∃ g w base, r.target = .segment g w base := by
  obtain ⟨same, passes⟩ := h
  obtain ⟨-, -, -, -, -, -, -, check8⟩ := Image.firstFailure_none passes
  have absent : r.image.kind ≠ 1#2 → r.threshold = none := fun other => by
    obtain ⟨-, -, zero⟩ := Image.check8_fields check8 other
    rw [← same]
    simp [ofImage, present?, zero]
  cases target : r.target with
  | segment g w base => exact ⟨g, w, base, rfl⟩
  | localPart => simp [absent (by simp [image, target, kindCode])] at threshold
  | deny => simp [absent (by simp [image, target, kindCode])] at threshold

end Record

theorem SegState.isDown_iff (st : SegState) : st.isDown = true ↔ st ∈ [SegState.disabled, .closing, .faulted] := by
  cases st <;> decide

theorem SegState.isDown_eq_false_iff (st : SegState) :
    st.isDown = false ↔ st ∈ [SegState.clearing, .idle, .owned, .releasing] := by
  cases st <;> decide

section

variable {r : Record} {st : SlotState} {d : Direction} {segments : Vector Segment 8}

theorem judgeRecord_deny (deny : r.target = .deny) : judgeRecord r st d segments = .deny := by
  simp [judgeRecord, deny]

theorem judgeRecord_access (other : r.target ≠ .deny) (refused : r.allows d = false) :
    judgeRecord r st d segments = .access := by
  cases target : r.target with
  | deny => exact absurd target other
  | localPart | segment g w base => simp [judgeRecord, target, refused]

theorem judgeRecord_quarantined (other : r.target ≠ .deny) (allowed : r.allows d = true) :
    judgeRecord r .quarantined d segments = .quarantined := by
  cases target : r.target with
  | deny => exact absurd target other
  | localPart | segment g w base => simp [judgeRecord, target, allowed]

theorem judgeRecord_segment {g : SegIx} {w : Width} {base : Addr} (target : r.target = .segment g w base)
    (allowed : r.allows d = true) (serving : st ≠ .quarantined) :
    judgeRecord r st d segments = if (segments.get g).state.isDown then .segmentDown else .forward := by
  simp [judgeRecord, target, allowed, serving]

theorem judgeRecord_local (target : r.target = .localPart) (allowed : r.allows d = true) (serving : st ≠ .quarantined) :
    judgeRecord r st d segments = .localPart := by
  simp [judgeRecord, target, allowed, serving]

/-- A slot that competes is never judged to be no match (R30). -/
theorem judgeRecord_ne_noMatch : judgeRecord r st d segments ≠ .noMatch := by
  unfold judgeRecord
  split
  · nofun
  · split_ifs <;> nofun
  · split_ifs <;> nofun

end

namespace State

variable {s : State} {p : Port} {q : Query}

theorem lookupResult_of_no_winner (none : lookupWinner s.table p q = none) : s.lookupResult p q = (.noMatch, .none) := by
  simp only [lookupResult, none]

theorem lookupResult_of_winner {k : SlotIx} {r : Record} (winner : lookupWinner s.table p q = some k)
    (record : (s.slot k).record = some r) :
    s.lookupResult p q = (judgeRecord r (s.slot k).state q.dir s.segments, some (k, r)) := by
  simp only [lookupResult, winner, record]

/-- NO_MATCH names no slot (R30). -/
theorem lookupResult_of_noMatch (noMatch : (s.lookupResult p q).1 = .noMatch) : s.lookupResult p q = (.noMatch, none) := by
  unfold lookupResult at noMatch ⊢
  split
  · rfl
  · split
    · rfl
    · next record => simp_all [judgeRecord_ne_noMatch]

end State

/-- Settles O12: the rows of R30's table in their order; in a sound table a quarantined slot has a threshold, which only a
route to a segment carries. -/
theorem lookupJudgementTakesTheFirstCondition : Obligations.LookupJudgementTakesTheFirstCondition := by
  refine fun s p q => ⟨State.lookupResult_of_no_winner, fun k r winner record => ?_⟩
  rw [State.lookupResult_of_winner winner record, ← Record.allows_eq_false_iff, Bool.not_eq_false]
  refine ⟨rfl, judgeRecord_deny, fun other => ⟨judgeRecord_access other, fun allowed => ⟨fun quarantined => ?_,
    fun serving => ⟨fun g w base target => ⟨fun down => ?_, fun up => ?_⟩, fun target => ?_⟩⟩⟩, fun table quarantined => ?_⟩
  · rw [quarantined, judgeRecord_quarantined other allowed]
  · rw [judgeRecord_segment target allowed serving]
    exact if_pos ((SegState.isDown_iff _).mpr down)
  · rw [judgeRecord_segment target allowed serving]
    exact if_neg (by rw [Bool.not_eq_true]; exact (SegState.isDown_eq_false_iff _).mpr up)
  · exact judgeRecord_local target allowed serving
  · have ok := table.slots k
    simp only [slotOk, quarantined] at ok
    obtain ⟨a, t, valid, same, -, threshold, -⟩ := ok
    cases same.symm.trans record
    exact Record.target_segment_of_threshold valid threshold

/-! ### A lookup taken (R22, R26, R33, R34) -/

namespace State

variable {s : State} {p : Port} {q : Query}

theorem lookupBinding_of_unbinding {w : Option (SlotIx × Record)} {v : Verdict} (result : s.lookupResult p q = (v, w))
    (unbinding : v ≠ .localPart ∧ v ≠ .forward) : s.lookupBinding p q = none := by
  unfold lookupBinding
  split
  · simp_all
  · simp_all
  · rfl

theorem lookupBinding_of_binding {k : SlotIx} {r : Record} {v : Verdict} {d : Destination}
    (result : s.lookupResult p q = (v, some (k, r))) (binding : v = .localPart ∨ v = .forward)
    (dest : r.destination q.addr = some d) :
    s.lookupBinding p q = some
      { slot := k, gen := (s.slot k).gen,
        snap := { dest := d, access := r.access, limit := r.limit, counted := r.counted } } := by
  rcases binding with rfl | rfl <;> simp [lookupBinding, result, dest]

theorem lookupWinnerSlot_eq {k : SlotIx} {r : Record} {v : Verdict} (result : s.lookupResult p q = (v, some (k, r))) :
    s.lookupWinnerSlot p q = some (k, (s.slot k).gen) := by
  simp [lookupWinnerSlot, result]

theorem bound_eq (x : Slot) (now : Nat) :
    x.bound now = { x with inflight := x.inflight + 1, lease := leasePaused now x.lease } := by
  unfold Slot.bound leasePaused
  cases x.lease <;> rfl

end State

section

variable {s : State} {p : Port} {q : Query} {rest : List TableMsg}

theorem exec_lookup_of_first (first : (s.port p).toTable = .lookup q :: rest) (taken : (s.port p).fromTable = []) :
    exec (.lookup p) s = .next (s.takeLookup p q) := by
  change execLookup p s = _
  simp only [execLookup, first, taken]

/-- A lookup that binds nothing answers its port and leaves the table (R30). -/
theorem takeLookup_of_unbinding (first : (s.port p).toTable = .lookup q :: rest) (taken : (s.port p).fromTable = [])
    {v : Verdict} {w : Option (SlotIx × Record)} (result : s.lookupResult p q = (v, w))
    (unbinding : v ≠ .localPart ∧ v ≠ .forward) :
    s.takeLookup p q = (s.setPort p { s.port p with
      toTable := rest, fromTable := [.lookup q v (s.lookupWinnerSlot p q) none] }).raiseIf (v == .noMatch) (.miss p) := by
  simp only [State.takeLookup, State.lookupBinding_of_unbinding result unbinding, State.bindWinner, result]
  rw [State.replied_eq first _ rfl, taken]
  rfl

/-- A lookup that binds raises the winner's count in the event of its answer (R22, R26). -/
theorem takeLookup_of_binding (first : (s.port p).toTable = .lookup q :: rest) (taken : (s.port p).fromTable = [])
    {k : SlotIx} {r : Record} {v : Verdict} {d : Destination} (result : s.lookupResult p q = (v, some (k, r)))
    (binding : v = .localPart ∨ v = .forward) (dest : r.destination q.addr = some d) :
    s.takeLookup p q = (s.setSlot k { s.slot k with
        inflight := (s.slot k).inflight + 1, lease := leasePaused s.now (s.slot k).lease }).setPort p { s.port p with
      toTable := rest, fromTable := [.lookup q v (some (k, (s.slot k).gen)) (some
        { slot := k, gen := (s.slot k).gen,
          snap := { dest := d, access := r.access, limit := r.limit, counted := r.counted } })] } := by
  have quiet : (v == .noMatch) = false := by rcases binding with rfl | rfl <;> rfl
  simp only [State.takeLookup, State.lookupBinding_of_binding result binding dest, State.lookupWinnerSlot_eq result,
    State.bindWinner, result, quiet, State.raiseIf_false, State.bound_eq]
  rw [State.replied_eq (u := s.setSlot k _) first _ rfl, taken]
  rfl

end

/-- Settles O14: the four kinds of answer of a lookup. -/
theorem lookupAnswersAndBinds : Obligations.LookupAnswersAndBinds := by
  intro s p q rest first taken c
  simp only [exec_lookup_of_first first taken]
  refine ⟨fun noMatch => ?_, fun v refusing k r result => ?_, fun k r g w base result target => ?_,
    fun k r result target => ?_⟩
  · have result := State.lookupResult_of_noMatch noMatch
    have winner : s.lookupWinnerSlot p q = none := by simp [State.lookupWinnerSlot, result]
    rw [takeLookup_of_unbinding first taken result (by decide), winner]
    rfl
  · have unbinding : v ≠ .localPart ∧ v ≠ .forward ∧ (v == .noMatch) = false := by
      simp only [List.mem_cons, List.not_mem_nil, or_false] at refusing
      rcases refusing with rfl | rfl | rfl | rfl <;> decide
    obtain ⟨notLocal, notForward, quiet⟩ := unbinding
    rw [takeLookup_of_unbinding first taken result ⟨notLocal, notForward⟩, quiet, State.lookupWinnerSlot_eq result]
    rfl
  · rw [takeLookup_of_binding first taken result (.inr rfl) (by rw [Record.destination, target])]
  · rw [takeLookup_of_binding first taken result (.inl rfl) (by rw [Record.destination, target])]

/-! ### PREFIX_TEST (R35) -/

namespace Record

/-- The mask arithmetic of PREFIX_TEST compares the two high positions where they are fixed. -/
theorem high_agrees_iff (key mask : Addr) (h : BitVec 2) :
    (key.extractLsb' 8 2 ^^^ h) &&& mask.extractLsb' 8 2 = 0#2 ↔
      ∀ i, i < 2 → mask.getLsbD (8 + i) = true → h.getLsbD i = key.getLsbD (8 + i) := by
  refine ⟨fun zero i below fixed => ?_, fun agree => BitVec.eq_of_getLsbD_eq fun i below => ?_⟩
  · have bit := congrArg (BitVec.getLsbD · i) zero
    have same : key.getLsbD (8 + i) = h.getLsbD i := by simpa [below, fixed] using bit
    exact same.symm
  · cases fixed : mask.getLsbD (8 + i) with
    | false => simp [fixed]
    | true => simp only [BitVec.getLsbD_and, BitVec.getLsbD_xor, BitVec.getLsbD_extractLsb', agree i below fixed, below,
        decide_true, Bool.true_and, Bool.xor_self, Bool.false_and, BitVec.getLsbD_zero]

/-- The PREFIX_TEST of a 10-bit route asks whether some address of its match set has the high bits `h` (R35): the one with
the key's low bits, if any. -/
theorem exists_covers_high_iff {r : Record} (width : r.width = .w10) (h : BitVec 2) :
    (∃ a, r.covers a = true ∧ a.extractLsb' 8 2 = h) ↔
      (r.key.extractLsb' 8 2 ^^^ h) &&& r.mask.extractLsb' 8 2 = 0#2 := by
  rw [high_agrees_iff]
  constructor
  · rintro ⟨a, covers, rfl⟩ i below fixed
    have agree := (r.covers_iff a).mp covers (8 + i) (by rw [width]; simp [Width.positions]; omega) fixed
    simpa [below] using agree
  · intro agree
    refine ⟨h ++ r.key.setWidth 8, (r.covers_iff _).mpr fun i below fixed => ?_, ?_⟩
    · rw [width] at below
      rw [BitVec.getLsbD_append]
      split_ifs with low
      · simp [low]
      · obtain ⟨j, rfl⟩ : ∃ j, i = 8 + j := ⟨i - 8, by omega⟩
        simpa using agree j (by simp only [Width.positions] at below; omega) fixed
    · exact BitVec.eq_of_getLsbD_eq fun i below => by
        rw [BitVec.getLsbD_extractLsb', BitVec.getLsbD_append]
        simp [below]

end Record

theorem State.prefixAccepted_iff (s : State) (p : Port) (h : BitVec 2) :
    s.prefixAccepted p h = true ↔ ∃ k r a, serves (s.slot k) ∧ (s.slot k).record = some r ∧ r.width = .w10 ∧
      r.ports.get p = true ∧ r.covers a = true ∧ a.extractLsb' 8 2 = h := by
  simp only [prefixAccepted, List.any_eq_true, List.mem_finRange, true_and, Bool.and_eq_true, Slot.inService_iff,
    Slot.recordIs, Option.any_eq_true, beq_iff_eq, serves]
  constructor
  · rintro ⟨k, service, r, record, ⟨width, port⟩, agree⟩
    obtain ⟨a, covers, high⟩ := (Record.exists_covers_high_iff width h).mpr agree
    exact ⟨k, r, a, service, record, width, port, covers, high⟩
  · rintro ⟨k, r, a, service, record, width, port, covers, high⟩
    exact ⟨k, service, r, record, ⟨width, port⟩, (Record.exists_covers_high_iff width h).mp ⟨a, covers, high⟩⟩

theorem exec_prefixTest_of_first {s : State} {p : Port} {h : BitVec 2} {rest : List TableMsg}
    (first : (s.port p).toTable = .prefixTest h :: rest) :
    exec (.prefixTest p) s = .next ((s.setPort p { s.port p with
      toTable := rest, fromTable := (s.port p).fromTable ++ [.prefixTest (s.prefixAccepted p h)] }).raiseIf
        (!s.prefixAccepted p h) (.miss p)) := by
  change execPrefixTest p s = _
  simp only [execPrefixTest, first, State.takePrefixTest, State.replied_eq first _ rfl]

/-- Settles O15: accepted exactly where some address of a match set has the presented high bits. -/
theorem prefixTestAcceptsAMatchableHighPart : Obligations.PrefixTestAcceptsAMatchableHighPart := by
  intro s p h rest first c
  dsimp only
  rw [← State.prefixAccepted_iff, exec_prefixTest_of_first first]
  refine ⟨fun accepted => ?_, fun refused => ?_⟩
  · simp only [accepted]; rfl
  · simp only [Bool.not_eq_true _ ▸ refused]; rfl

end Sys2Proof.Machine
end

section
/-! Outcomes at the port (3.4, 3.5) and reports, unbinds and expiries (1.5, 3.7, 4.2, 6.6, 7.1, 7.3). -/

namespace Sys2Proof.Machine

/-! ### An outcome taken (R50 to R53, R56 to R58) -/

namespace PortCtl

variable {q : PortCtl}

theorem discardOutcome_eq (q : PortCtl) (b : Option Binding) :
    q.discardOutcome b = { q with stale := q.stale - 1, toTable := unbindSent b ++ q.toTable } := by
  cases b <;> rfl

theorem takeLookupOutcome_of_awaited (awaiting : q.awaiting = true) (fresh : q.stale = 0) (query : Query)
    (b : Option Binding) : q.takeLookupOutcome query b = q.actOnLookup query b := if_pos ⟨fresh, awaiting⟩

theorem takeLookupOutcome_of_stale (stale : q.stale ≠ 0 ∨ q.awaiting = false) (query : Query) (b : Option Binding) :
    q.takeLookupOutcome query b = q.discardOutcome b := if_neg fun ⟨fresh, awaiting⟩ => by
  rcases stale with h | h
  · exact h fresh
  · simp [h] at awaiting

theorem takePrefixOutcome_of_stale (stale : q.stale ≠ 0 ∨ q.awaiting = false) (accepted : Bool) :
    q.takePrefixOutcome accepted = { q with stale := q.stale - 1 } := by
  rw [takePrefixOutcome, if_neg, discardOutcome_eq]
  · rfl
  · rintro ⟨fresh, awaiting⟩
    rcases stale with h | h
    · exact h fresh
    · simp [h] at awaiting

theorem takePrefixOutcome_of_accepted (awaiting : q.awaiting = true) (fresh : q.stale = 0) :
    q.takePrefixOutcome true = { q with
      phase := .tenLow, awaiting := false, hold := none, lastAnswer := some .ack, fetched := none, shown := false } := by
  rw [takePrefixOutcome, if_pos ⟨fresh, awaiting⟩]
  rfl

theorem takePrefixOutcome_of_refused (notQueued : ∀ g, q.link ≠ .queued g) (awaiting : q.awaiting = true)
    (fresh : q.stale = 0) : q.takePrefixOutcome false =
      { q.ended .unaddressed with awaiting := false, hold := none, lastAnswer := some .nack } := by
  rw [takePrefixOutcome, if_pos ⟨fresh, awaiting⟩]
  exact refuseCarried_eq (q := { q with awaiting := false }) notQueued

/-- A refusing outcome (R51): what is carried is given up. -/
theorem actOnLookup_of_refusal (notQueued : ∀ g, q.link ≠ .queued g) (query : Query) :
    q.actOnLookup query none = { q.ended .unaddressed with
      awaiting := false, direction := some query.dir, hold := none, lastAnswer := some .nack } := by
  unfold actOnLookup
  dsimp only
  rw [giveUpBinding_eq, refuseCarried_eq (q := { q with
    awaiting := false, direction := some query.dir, bound := none, tenBit := none,
    toTable := q.toTable ++ unbindSent q.bound }) notQueued]
  simp [ended, unbindSent]

/-- The segment released by a context that goes to another phase and keeps its binding (R52, R53). -/
theorem released_toPhase_eq (notQueued : ∀ g, q.link ≠ .queued g) (ph : Phase) :
    q.releaseSegment.toPhase ph = { q with
      phase := ph, link := .none, fetched := none, shown := false, toSegments := q.toSegments ++ releaseSent q.link } := by
  cases link : q.link with
  | none => simp [releaseSegment, link, toPhase, dropFetched, releaseSent]
  | queued g => exact absurd link (notQueued g)
  | owned g => simp [releaseSegment_of_owned link, toPhase, dropFetched, releaseSent]

theorem enterLocal_write (notQueued : ∀ g, q.link ≠ .queued g) :
    q.enterLocal .write = { q with
      phase := .command, link := .none, fetched := none, shown := false, toSegments := q.toSegments ++ releaseSent q.link,
      hold := none, lastAnswer := some .ack, frame := [], overflow := false } :=
  congrArg (fun r : PortCtl => { r with hold := none, lastAnswer := some .ack, frame := [], overflow := false })
    (released_toPhase_eq notQueued .command)

theorem enterLocal_read (notQueued : ∀ g, q.link ≠ .queued g) :
    q.enterLocal .read = { q with
      phase := .response, link := .none, fetched := none, shown := false, toSegments := q.toSegments ++ releaseSent q.link,
      hold := none, lastAnswer := some .ack, count := 0 } :=
  congrArg (fun r : PortCtl => { r with hold := none, lastAnswer := some .ack, count := 0 })
    (released_toPhase_eq notQueued .response)

theorem enterForward_of_owned {g : SegIx} (owned : q.link = .owned g) (w : Width) (a : Addr) (d : Direction) :
    q.enterForward g w a d = { q with
      phase := .proxy, link := .owned g, fetched := none, shown := false, toSegments := q.toSegments ++ [(g, .ask (.address w a d))] } := by
  simp [enterForward, owned, askAddress, askSegment, sendSegment, toPhase, dropFetched]

theorem enterForward_of_other (notQueued : ∀ g, q.link ≠ .queued g) {g : SegIx} (other : q.link ≠ .owned g) (w : Width)
    (a : Addr) (d : Direction) :
    q.enterForward g w a d = { q with
      phase := .waitGrant, link := .queued g, requests := q.requests + 1, fetched := none, shown := false,
      toSegments := q.toSegments ++ releaseSent q.link ++ [(g, .request (q.requests + 1))] } := by
  have requested : q.releaseSegment.requestSegment g = { q.releaseSegment.toPhase .waitGrant with
      link := .queued g, requests := q.requests + 1,
      toSegments := q.releaseSegment.toSegments ++ [(g, .request (q.requests + 1))] } := by
    simp [requestSegment, sendSegment, toPhase, dropFetched]
  have sent := congrArg PortCtl.toSegments (released_toPhase_eq notQueued .waitGrant)
  rw [toPhase_toSegments] at sent
  rw [enterForward, if_neg other, requested, released_toPhase_eq notQueued, sent]

/-- The context of an accepting outcome, its earlier binding given up and the new one recorded (R50, R57). -/
def recording (q : PortCtl) (query : Query) (b : Binding) (memory : Option TenBit) : PortCtl :=
  { q with
    awaiting := false, direction := some query.dir, bound := some b, tenBit := memory,
    toTable := q.toTable ++ unbindSent q.bound }

theorem actOnLookup_of_local {b : Binding} (dest : b.snap.dest = .localPart) (query : Query) :
    q.actOnLookup query (some b) = (q.recording query b none).enterLocal query.dir := by
  unfold actOnLookup
  dsimp only
  rw [giveUpBinding_eq]
  simp only [dest]
  rfl

theorem actOnLookup_of_segment {b : Binding} {g : SegIx} {w : Width} {a : Addr} (dest : b.snap.dest = .segment g w a)
    (query : Query) :
    q.actOnLookup query (some b) = (q.recording query b (match query.width with
      | .w7 => none
      | .w10 => some { slot := b.slot, gen := b.gen, addr := query.addr })).enterForward g w a query.dir := by
  unfold actOnLookup
  dsimp only
  rw [giveUpBinding_eq]
  simp only [dest, rememberTenBit]
  cases query.width <;> rfl

theorem link_ne_queued_of_awaiting (h : PortOk q) (awaiting : q.awaiting = true) (g : SegIx) : q.link ≠ .queued g :=
  h.link_ne_queued (fun e => by simpa [awaiting] using h.notJudging (by rw [e]; rfl)) g

end PortCtl

section

variable {s : State} {p : Port} {rest : List TableReply}

theorem exec_lookupOutcome_of_first {q : Query} {v : Verdict} {n : Option (SlotIx × BitVec 8)} {b : Option Binding}
    (first : (s.port p).fromTable = .lookup q v n b :: rest) :
    exec (.lookupOutcome p) s =
      .next (s.setPort p (({ s.port p with fromTable := rest } : PortCtl).takeLookupOutcome q b)) := by
  change execLookupOutcome p s = _
  simp only [execLookupOutcome, first]
  rfl

theorem exec_prefixOutcome_of_first {a : Bool} (first : (s.port p).fromTable = .prefixTest a :: rest) :
    exec (.prefixOutcome p) s =
      .next (s.setPort p (({ s.port p with fromTable := rest } : PortCtl).takePrefixOutcome a)) := by
  change execPrefixOutcome p s = _
  simp only [execPrefixOutcome, first]
  rfl

end

/-- Settles O16: a context that awaits an outcome is not queued, so what it carries is a segment it owns. -/
theorem outcomesAnswerTheAddressPhase : Obligations.OutcomesAnswerTheAddressPhase := by
  refine ⟨fun s p rest ok awaiting fresh => ?_, fun s p rest stale => ⟨fun q v n b first => ?_, fun a first => ?_⟩⟩
  · have notQueued := PortCtl.link_ne_queued_of_awaiting ok awaiting
    refine ⟨fun q v n first => ?_, fun q v n b first dest write => ?_, fun q v n b first dest read => ?_, fun first => ?_,
      fun first => ?_⟩
    · rw [exec_lookupOutcome_of_first first, PortCtl.takeLookupOutcome_of_awaited (q := { s.port p with fromTable := rest })
        awaiting fresh, PortCtl.actOnLookup_of_refusal (q := { s.port p with fromTable := rest }) notQueued]
      rfl
    · rw [exec_lookupOutcome_of_first first, PortCtl.takeLookupOutcome_of_awaited (q := { s.port p with fromTable := rest })
        awaiting fresh, PortCtl.actOnLookup_of_local dest, write, PortCtl.enterLocal_write (q :=
          ({ s.port p with fromTable := rest } : PortCtl).recording q b none) notQueued, PortCtl.recording, write]
      rfl
    · rw [exec_lookupOutcome_of_first first, PortCtl.takeLookupOutcome_of_awaited (q := { s.port p with fromTable := rest })
        awaiting fresh, PortCtl.actOnLookup_of_local dest, read, PortCtl.enterLocal_read (q :=
          ({ s.port p with fromTable := rest } : PortCtl).recording q b none) notQueued, PortCtl.recording, read]
      rfl
    · rw [exec_prefixOutcome_of_first first,
        PortCtl.takePrefixOutcome_of_accepted (q := { s.port p with fromTable := rest }) awaiting fresh]
    · rw [exec_prefixOutcome_of_first first,
        PortCtl.takePrefixOutcome_of_refused (q := { s.port p with fromTable := rest }) notQueued awaiting fresh]
      rfl
  · rw [exec_lookupOutcome_of_first first, PortCtl.takeLookupOutcome_of_stale (q := { s.port p with fromTable := rest }) stale,
      PortCtl.discardOutcome_eq]
  · rw [exec_prefixOutcome_of_first first, PortCtl.takePrefixOutcome_of_stale (q := { s.port p with fromTable := rest }) stale]

/-- Settles O17: the segment owned already is asked at once, any other is released ahead of the request. -/
theorem forwardOutcomeKeepsOrRequestsTheSegment : Obligations.ForwardOutcomeKeepsOrRequestsTheSegment := by
  intro s p rest q v n b g w a ok awaiting fresh first dest memory c
  rw [exec_lookupOutcome_of_first first, PortCtl.takeLookupOutcome_of_awaited (q := { s.port p with fromTable := rest })
    awaiting fresh, PortCtl.actOnLookup_of_segment dest]
  refine ⟨fun owned => ?_, fun other => ?_⟩
  · exact congrArg (fun r => Host.Outcome.next (s.setPort p r)) (PortCtl.enterForward_of_owned
      (q := ({ s.port p with fromTable := rest } : PortCtl).recording q b memory) owned w a q.dir)
  · have notQueued := PortCtl.link_ne_queued_of_awaiting ok awaiting
    exact congrArg (fun r => Host.Outcome.next (s.setPort p r)) (PortCtl.enterForward_of_other
      (q := ({ s.port p with fromTable := rest } : PortCtl).recording q b memory) notQueued other w a q.dir)

/-! ### Unbinds and reports at a slot (R23, R80, R159, R165 to R167) -/

namespace Slot

variable {x : Slot}

theorem reloaded_eq {r : Record} (record : x.record = some r) (now : Nat) :
    x.reloaded now = { x with lease := freshLease now r x.inflight x.lease } := by
  have ticks : x.record.bind Record.leaseTicks = r.lifetime.map fun n => n.toNat * 8000000 := by rw [record]; rfl
  unfold reloaded freshLease
  rw [ticks]
  cases r.lifetime <;> rfl

theorem unbound_of_other {gen : BitVec 8} (other : x.gen ≠ gen ∨ x.state = .free ∨ x.state = .staged) (now : Nat) :
    x.unbound gen now = (x, false) := by
  rcases other with other | other | other
  · exact if_pos other
  · simp [unbound, other]
  · simp [unbound, other]

/-- An unbind that leaves something bound lowers the count alone. -/
theorem unbound_of_more {n : Nat} (more : x.inflight = n + 2) (held : serves x ∨ x.state = .draining) (now : Nat) :
    x.unbound x.gen now = ({ x with inflight := n + 1 }, false) := by
  rcases held with (state | state) | state <;> simp [unbound, state, more]

theorem unbound_of_service (service : serves x) (now : Nat) :
    x.unbound x.gen now = (if x.inflight - 1 = 0 then ({ x with inflight := x.inflight - 1 } : Slot).reloaded now
      else { x with inflight := x.inflight - 1 }, false) := by
  unfold unbound
  rw [if_neg (by simp)]
  dsimp only
  split
  case h_1 | h_2 => simp_all [serves]
  case h_5 => simp_all [serves]
  all_goals rfl

/-- The last unbind of an in-service slot reloads its lease, which runs again. -/
theorem unbound_of_last {r : Record} (last : x.inflight = 1) (service : serves x) (record : x.record = some r) (now : Nat) :
    x.unbound x.gen now = ({ x with inflight := 0, lease := freshLease now r 0 x.lease }, false) := by
  rw [unbound_of_service service, last, if_pos rfl, reloaded_eq (x := { x with inflight := 1 - 1 }) record]

/-- The last unbind of a DRAINING slot frees it. -/
theorem unbound_of_drained (last : x.inflight = 1) (draining : x.state = .draining) (now : Nat) :
    x.unbound x.gen now = (x.freed, true) := by
  simp [unbound, draining, last, freed]

theorem accepted_of_live {r : Record} (live : x.state = .live) (record : x.record = some r) (now : Nat) :
    x.accepted x.gen now = { x with strikes := 0, lease := freshLease now r x.inflight x.lease } := by
  have accepts : x.accepted x.gen now = ({ x with strikes := 0 } : Slot).reloaded now := by
    unfold accepted
    rw [if_neg (by simp)]
    split
    case h_1 => rfl
    all_goals simp_all
  rw [accepts, reloaded_eq (x := { x with strikes := 0 }) record]

theorem accepted_of_quarantined {r : Record} (quarantined : x.state = .quarantined) (record : x.record = some r) (now : Nat) :
    x.accepted x.gen now = { x with lease := freshLease now r x.inflight x.lease } := by
  simp [accepted, quarantined, reloaded_eq record]

theorem accepted_of_other {gen : BitVec 8} (other : x.gen ≠ gen ∨ ¬ serves x) (now : Nat) : x.accepted gen now = x := by
  rcases other with other | other
  · exact if_pos other
  · unfold accepted
    split
    · rfl
    · split
      · next live => exact absurd (.inl live) other
      · next quarantined => exact absurd (.inr quarantined) other
      all_goals rfl

theorem refused_of_live {r : Record} {t : BitVec 4} (live : x.state = .live) (record : x.record = some r)
    (threshold : r.threshold = some t) :
    x.refused x.gen = if x.strikes + 1 = t.toNat then ({ x with strikes := x.strikes + 1, state := .quarantined }, true)
      else ({ x with strikes := x.strikes + 1 }, false) := by
  simp [refused, live, record, threshold]

theorem refused_of_no_threshold {r : Record} (live : x.state = .live) (record : x.record = some r)
    (none : r.threshold = none) : x.refused x.gen = (x, false) := by
  simp [refused, live, record, none]

theorem refused_of_other {gen : BitVec 8} (other : x.gen ≠ gen ∨ x.state ≠ .live) : x.refused gen = (x, false) := by
  rcases other with other | other
  · exact if_pos other
  · unfold refused
    split
    · rfl
    · split
      · next live => exact absurd live other
      all_goals rfl

end Slot

section

variable {s : State} {p : Port} {k : SlotIx} {gen : BitVec 8} {rest : List TableMsg}

theorem dropTableMsg_of_first {u : State} {m : TableMsg} (first : (s.port p).toTable = m :: rest) (same : u.port p = s.port p) :
    u.dropTableMsg p = u.setPort p { s.port p with toTable := rest } := by
  simp [State.dropTableMsg, State.onPort, same, first]

theorem exec_unbind_of_first (first : (s.port p).toTable = .unbind k gen :: rest) {x : Slot} {drained : Bool}
    (taken : (s.slot k).unbound gen s.now = (x, drained)) :
    exec (.unbind p) s =
      .next (((s.setSlot k x).setPort p { s.port p with toTable := rest }).raiseIf drained (.routeDrained k)) := by
  change execUnbind p s = _
  simp only [execUnbind, first, taken]
  rw [dropTableMsg_of_first (u := s.setSlot k x) first rfl]

theorem exec_acceptanceReport_of_first (first : (s.port p).toTable = .acceptance k gen :: rest) {x : Slot}
    (taken : (s.slot k).accepted gen s.now = x) :
    exec (.acceptanceReport p) s = .next ((s.setSlot k x).setPort p { s.port p with toTable := rest }) := by
  change execAcceptanceReport p s = _
  simp only [execAcceptanceReport, first, taken]
  rw [dropTableMsg_of_first (u := s.setSlot k x) first rfl]

theorem exec_refusalReport_of_first (first : (s.port p).toTable = .refusal k gen :: rest) {x : Slot} {struck : Bool}
    (taken : (s.slot k).refused gen = (x, struck)) :
    exec (.refusalReport p) s =
      .next (((s.setSlot k x).setPort p { s.port p with toTable := rest }).raiseIf struck (.routeQuarantined k)) := by
  change execRefusalReport p s = _
  simp only [execRefusalReport, first, taken]
  rw [dropTableMsg_of_first (u := s.setSlot k x) first rfl]

end

/-- Settles O18: an unbind by the count it finds and the state of its slot. -/
theorem unbindLowersTheInFlightCount : Obligations.UnbindLowersTheInFlightCount := by
  intro s p k gen rest first c
  refine ⟨fun other => ?_, fun n same more held => ?_, fun r same last service record => ?_, fun same last draining => ?_⟩
  · rw [exec_unbind_of_first first (Slot.unbound_of_other other _), State.setSlot_self]
    rfl
  · subst same
    rw [exec_unbind_of_first first (Slot.unbound_of_more more held _)]
    rfl
  · subst same
    rw [exec_unbind_of_first first (Slot.unbound_of_last last service record _)]
    rfl
  · subst same
    rw [exec_unbind_of_first first (Slot.unbound_of_drained last draining _)]
    rfl

/-- Settles O19: acceptance and refusal reports, by the generation and the state of their slot. -/
theorem reportsCountStrikesAndReloadLeases : Obligations.ReportsCountStrikesAndReloadLeases := by
  intro s p k gen rest r x c
  refine ⟨fun first => ⟨fun same live record => ?_, fun same quarantined record => ?_, fun other => ?_⟩,
    fun first => ⟨fun t same live record threshold below => ?_, fun t same live record threshold reached => ?_,
      fun same live record none => ?_, fun other => ?_⟩⟩
  · subst same
    exact exec_acceptanceReport_of_first first (Slot.accepted_of_live live record _)
  · subst same
    exact exec_acceptanceReport_of_first first (Slot.accepted_of_quarantined quarantined record _)
  · rw [exec_acceptanceReport_of_first first (Slot.accepted_of_other other _), State.setSlot_self]
  · subst same
    rw [exec_refusalReport_of_first first ((Slot.refused_of_live live record threshold).trans (if_neg below))]
    rfl
  · subst same
    rw [exec_refusalReport_of_first first ((Slot.refused_of_live live record threshold).trans (if_pos reached)), reached]
    rfl
  · subst same
    rw [exec_refusalReport_of_first first (Slot.refused_of_no_threshold live record none), State.setSlot_self]
    rfl
  · rw [exec_refusalReport_of_first first (Slot.refused_of_other other), State.setSlot_self]
    rfl

/-! ### Expiries (R66, R150, R160) -/

/-- Settles O20: a lease that runs out and an idle deadline that passes. -/
theorem leaseAndIdleExpiries : Obligations.LeaseAndIdleExpiries := by
  refine ⟨fun s k t service running => ?_, fun s o t deadline => ?_, fun s o none => ?_⟩
  · change execLeaseExpiry k s = _
    simp only [execLeaseExpiry, running, (Slot.inService_iff _).mpr service, if_true]
    rfl
  · change execIdleExpiry s = _
    simp only [execIdleExpiry, deadline]
    rfl
  · change execIdleExpiry s = _
    simp only [execIdleExpiry, none]

namespace PortCtl

variable {q : PortCtl}

theorem ownAnswer_eq (q : PortCtl) : q.ownAnswer = if q.phase = .read then .byte 0xFF#8 else .nack := by
  unfold ownAnswer
  split <;> simp_all

theorem stopAwaiting_eq (q : PortCtl) :
    q.stopAwaiting = { q with awaiting := false, stale := if q.awaiting then q.stale + 1 else q.stale } := by
  unfold stopAwaiting
  split
  · rfl
  · next none => simp [← Bool.not_eq_true _ ▸ none]

/-- The segment of the phase given up, whether owned or queued for, in a context that goes to another phase (R66). -/
theorem left_toPhase_eq (q : PortCtl) (ph : Phase) :
    q.leaveSegment.toPhase ph = { q with
      phase := ph, link := .none, fetched := none, shown := false, toSegments := q.toSegments ++ leaveSent q.link } := by
  cases link : q.link with
  | none => simp [leaveSegment, link, toPhase, dropFetched, leaveSent]
  | queued g => simp [leaveSegment, link, toPhase, dropFetched, leaveSent, sendSegment]
  | owned g => simp [leaveSegment, link, releaseSegment_of_owned link, toPhase, dropFetched, leaveSent]

theorem takeHoldExpiry_eq (q : PortCtl) :
    q.takeHoldExpiry = { q.ended .absorb with
      hold := none, held := none, awaiting := false, stale := if q.awaiting then q.stale + 1 else q.stale,
      lastAnswer := some (if q.phase = .read then .byte 0xFF#8 else .nack),
      toSegments := q.toSegments ++ leaveSent q.link } := by
  rw [takeHoldExpiry, stopAwaiting_eq, giveUpBinding_eq, ownAnswer_eq]
  simp only [leaveSegment_awaiting, leaveSegment_stale, leaveSegment_bound, leaveSegment_toTable, answer_awaiting,
    answer_stale, answer_bound, answer_toTable]
  have left := left_toPhase_eq (q.answer (if q.phase = .read then .byte 0xFF#8 else .nack)) .absorb
  exact congrArg (fun r : PortCtl => { r with
    bound := none, tenBit := none, toTable := q.toTable ++ unbindSent q.bound, awaiting := false,
    stale := if q.awaiting then q.stale + 1 else q.stale, held := none }) left

end PortCtl

/-- Settles O21: the host answered, the segment of the phase and the binding given up. -/
theorem holdExpiryAnswersAndAbsorbs : Obligations.HoldExpiryAnswersAndAbsorbs := by
  intro s p t hold
  change execHoldExpiry p s = _
  simp only [execHoldExpiry, hold, State.onPort, PortCtl.takeHoldExpiry_eq]
  rfl

end Sys2Proof.Machine
end

section
/-! Data bytes, grants and results at the port (3.4, 3.6, 3.8, 4.1 to 4.5). -/

namespace Sys2Proof.Machine

namespace PortCtl

variable {q : PortCtl}

/-! ### Bytes answered without a segment (R63, R64, R71) -/

theorem takeResponseByte_eq (response : q.phase = .response) (free : q.hold = none) (buffer : List Byte) :
    q.takeResponseByte buffer = { q with
      lastAnswer := some (.byte (buffer.getD q.count 0xFF#8)), count := min 256 (q.count + 1) } := by
  rw [takeResponseByte, if_pos response, answer_of_free free]
  rfl

theorem takeAbsorbByte_eq (absorb : q.phase = .absorb) (free : q.hold = none) (d : Direction) :
    q.takeAbsorbByte d = { q with lastAnswer := some (match d with
      | .write => .nack
      | .read => .byte 0xFF#8) } := by
  unfold takeAbsorbByte
  rw [if_pos absorb]
  cases d <;> exact answer_of_free free _

theorem takeEndingByte_eq (ending : q.phase = .ending) (free : q.hold = none) :
    q.takeEndingByte = { q with lastAnswer := some (.byte 0xFF#8) } := by
  rw [takeEndingByte, if_pos ending, answer_of_free free]

end PortCtl

theorem exec_responseByte (p : Port) (s : State) :
    exec (.responseByte p) s = .next (s.setPort p ((s.port p).takeResponseByte (s.interpOf p).buffer)) := rfl

theorem exec_absorbByte (p : Port) (d : Direction) (s : State) :
    exec (.absorbByte p d) s = .next (s.setPort p ((s.port p).takeAbsorbByte d)) := rfl

theorem exec_endingByte (p : Port) (s : State) :
    exec (.endingByte p) s = .next (s.setPort p (s.port p).takeEndingByte) := rfl

/-- Settles O23: SCL is not held in these phases, so the answer and the count are all that changes. -/
theorem bytesAnsweredWithoutASegment : Obligations.BytesAnsweredWithoutASegment := by
  intro s p ok
  refine ⟨fun b response inside => ?_, fun response past => ?_, fun absorb => ⟨?_, ?_⟩, fun ending => ?_⟩
  · have byte : (s.interpOf p).buffer.getD (s.port p).count 0xFF#8 = b := by simp [List.getD, inside]
    rw [exec_responseByte, PortCtl.takeResponseByte_eq response (ok.free (by simp [response])), byte]
  · have byte : (s.interpOf p).buffer.getD (s.port p).count 0xFF#8 = 0xFF#8 := List.getD_eq_default _ _ past
    rw [exec_responseByte, PortCtl.takeResponseByte_eq response (ok.free (by simp [response])), byte]
  · rw [exec_absorbByte, PortCtl.takeAbsorbByte_eq absorb (ok.free (by simp [absorb]))]
  · rw [exec_absorbByte, PortCtl.takeAbsorbByte_eq absorb (ok.free (by simp [absorb]))]
  · rw [exec_endingByte, PortCtl.takeEndingByte_eq ending (ok.free (by simp [ending]))]

/-! ### Bytes written to a segment (R81 to R84) -/

namespace PortCtl

variable {q : PortCtl} {g : SegIx} {b : Binding}

theorem within_iff (n : Nat) (limit : Option Byte) : within n limit = true ↔ allowsBytes limit n := by
  cases limit <;> simp [within, allowsBytes]

/-- An owner that refuses a byte gives its transaction up (R63). -/
theorem refused_absorb_eq (owned : q.link = .owned g) :
    (q.answer .nack).absorb = { q.ended .absorb with hold := none, lastAnswer := some .nack } :=
  released_toPhase_eq_ended (q := q.answer .nack) (by rw [answer_link, owned]; nofun) .absorb

section

variable (write : q.phase = .write) (free : q.hold = none) (bound : q.bound = some b) (now : Nat) (byte : Byte)
include write free bound

theorem takeWriteByte_of_length (counted : b.snap.counted = true) (undeclared : q.declared = none) :
    q.takeWriteByte now byte = q.takeDeclaredLength b.snap.limit byte := by
  simp [takeWriteByte, write, free, bound, counted, undeclared]

theorem takeWriteByte_of_data (data : b.snap.counted = false ∨ q.declared ≠ none) :
    q.takeWriteByte now byte =
      if within (q.count + 1) b.snap.limit ∧ within (q.count + 1) q.declared then
        ((q.beginHold now).askSegment (.writeByte byte)).countUp
      else (q.answer .nack).absorb := by
  have noLength : ¬ (b.snap.counted = true ∧ q.declared = none) := by
    rintro ⟨counted, undeclared⟩
    rcases data with other | other
    · simp [counted] at other
    · exact other undeclared
  simp only [takeWriteByte, write, free, bound, if_neg noLength]

end

theorem forwarded_eq (owned : q.link = .owned g) (now : Nat) (byte : Byte) :
    ((q.beginHold now).askSegment (.writeByte byte)).countUp = { q with
      hold := some (holdDeadline now q), count := min 256 (q.count + 1),
      toSegments := q.toSegments ++ [(g, .ask (.writeByte byte))] } := by
  simp [askSegment, owned, countUp, sendSegment, beginHold, holdDeadline, ticksPerTenthMs]

end PortCtl

theorem exec_writeDataByte (p : Port) (b : Byte) (s : State) :
    exec (.writeDataByte p b) s = .next (s.setPort p ((s.port p).takeWriteByte s.now b)) := rfl

/-- Settles O24: a length byte where one is due, else a data byte within both limits or past one. -/
theorem writeBytesAreForwardedWithinTheLimits : Obligations.WriteBytesAreForwardedWithinTheLimits := by
  intro s p b bd g write free bound owned c
  have absorbed : ((s.port p).answer .nack).absorb = { (s.port p).ended .absorb with lastAnswer := some .nack } := by
    rw [PortCtl.refused_absorb_eq owned, ← free]
    rfl
  rw [exec_writeDataByte]
  refine ⟨fun counted undeclared nonzero allowed => ?_, fun counted undeclared refused => ?_,
    fun data => ⟨fun limit declared => ?_, fun past => ?_⟩⟩
  · rw [PortCtl.takeWriteByte_of_length write free bound s.now b counted undeclared, PortCtl.takeDeclaredLength,
      if_pos ⟨nonzero, (PortCtl.within_iff _ _).mpr allowed⟩,
      PortCtl.answer_of_free (q := { s.port p with declared := some b }) free]
  · rw [PortCtl.takeWriteByte_of_length write free bound s.now b counted undeclared, PortCtl.takeDeclaredLength, if_neg,
      absorbed]
    rintro ⟨nonzero, allowed⟩
    exact refused.elim nonzero (absurd ((PortCtl.within_iff _ _).mp allowed))
  · rw [PortCtl.takeWriteByte_of_data write free bound s.now b data,
      if_pos ⟨(PortCtl.within_iff _ _).mpr limit, (PortCtl.within_iff _ _).mpr declared⟩, PortCtl.forwarded_eq owned]
  · rw [PortCtl.takeWriteByte_of_data write free bound s.now b data, if_neg, absorbed]
    rintro ⟨limit, declared⟩
    exact past.elim (absurd ((PortCtl.within_iff _ _).mp limit)) (absurd ((PortCtl.within_iff _ _).mp declared))

/-! ### Bytes read from a segment (R88 to R90) -/

namespace PortCtl

variable {q : PortCtl} {g : SegIx} {b : Binding}

theorem takeReadClock_of_fetched {byte : Byte} (read : q.phase = .read) (free : q.hold = none) (unshown : q.shown = false)
    (fetched : q.fetched = some byte) (now : Nat) :
    q.takeReadClock now = { q with shown := true, lastAnswer := some (.byte byte) } := by
  rw [takeReadClock, if_pos ⟨read, free⟩, fetched]
  simp [unshown, shiftOut, answer_of_free free, ← fetched]

theorem takeReadClock_of_none (read : q.phase = .read) (free : q.hold = none) (none : q.fetched = none) (now : Nat) :
    q.takeReadClock now = { q with hold := some (holdDeadline now q) } := by
  unfold takeReadClock
  rw [if_pos ⟨read, free⟩]
  split
  · next fetched => simp [none] at fetched
  · rfl

section

variable (read : q.phase = .read) (shown : q.shown = true) (bound : q.bound = some b) (owned : q.link = .owned g)
include read shown bound owned

theorem takeHostAck_of_more (more : allowsBytes b.snap.limit (q.count + 1)) :
    q.takeHostAck true = { q with
      fetched := none, shown := false, count := min 256 (q.count + 1),
      toSegments := q.toSegments ++ [(g, .ask (.ackBit true)), (g, .ask .readByte)] } := by
  have below : q.belowLimit b.snap.limit = true := (within_iff _ _).mpr more
  simp [takeHostAck, read, shown, bound, below, askSegment, owned, sendSegment, dropFetched, countUp]

theorem takeHostAck_of_last (last : ¬ allowsBytes b.snap.limit (q.count + 1)) :
    q.takeHostAck true = { q.ended .absorb with
      toSegments := q.toSegments ++ [(g, .ask (.ackBit false)), (g, .release)] } := by
  have reached : q.belowLimit b.snap.limit = false := by
    rw [← Bool.not_eq_true, belowLimit, within_iff]
    exact last
  have asked : q.dropFetched.askSegment (.ackBit false) = { q with
      fetched := none, shown := false, toSegments := q.toSegments ++ [(g, .ask (.ackBit false))] } := by
    simp [askSegment, owned, sendSegment, dropFetched]
  have takes : q.takeHostAck true = (q.dropFetched.askSegment (.ackBit false)).absorb := by
    simp [takeHostAck, read, shown, bound, reached]
  rw [takes, asked, absorb, released_toPhase_eq_ended (by rw [owned]; nofun)]
  simp [ended, owned, releaseSent]

theorem takeHostAck_of_nack :
    q.takeHostAck false = { q with
      phase := .ending, fetched := none, shown := false,
      toSegments := q.toSegments ++ [(g, .ask (.ackBit false))] } := by
  simp [takeHostAck, read, shown, bound, askSegment, owned, sendSegment, dropFetched, toPhase]

end

end PortCtl

theorem exec_readDataByte (p : Port) (s : State) :
    exec (.readDataByte p) s = .next (s.setPort p ((s.port p).takeReadClock s.now)) := rfl

theorem exec_hostAcknowledge (p : Port) (ack : Bool) (s : State) :
    exec (.hostAcknowledge p ack) s = .next (s.setPort p ((s.port p).takeHostAck ack)) := rfl

/-- Settles O25: the byte fetched or not, and the host's answer at the limit or below it. -/
theorem readBytesAreShiftedOutAndAcknowledged : Obligations.ReadBytesAreShiftedOutAndAcknowledged := by
  intro s p bd g read free bound owned c
  refine ⟨fun b unshown fetched => ?_, fun none => ?_, fun shown more => ?_, fun shown last => ?_, fun shown => ?_⟩
  · rw [exec_readDataByte, PortCtl.takeReadClock_of_fetched read free unshown fetched]
  · rw [exec_readDataByte, PortCtl.takeReadClock_of_none read free none]
  · rw [exec_hostAcknowledge, PortCtl.takeHostAck_of_more read shown bound owned more]
  · rw [exec_hostAcknowledge, PortCtl.takeHostAck_of_last read shown bound owned last]
  · rw [exec_hostAcknowledge, PortCtl.takeHostAck_of_nack read shown bound owned]

/-! ### Grants and refusals (R54, R55, R67) -/

namespace PortCtl

variable {q : PortCtl} {g : SegIx} {n : Nat}

theorem takeGrant_of_latest {b : Binding} {d : Direction} {h : SegIx} {w : Width} {a : Addr} (waiting : q.phase = .waitGrant)
    (queued : q.link = .queued g) (latest : n = q.requests) (bound : q.bound = some b) (direction : q.direction = some d)
    (dest : b.snap.dest = .segment h w a) :
    q.takeGrant g n = { q with
      link := .owned g, phase := .proxy, fetched := none, shown := false,
      toSegments := q.toSegments ++ [(g, .ask (.address w a d))] } := by
  simp [takeGrant, waiting, queued, latest, bound, direction, dest, askAddress, askSegment, sendSegment, toPhase, dropFetched]

theorem takeGrant_of_other (other : q.phase ≠ .waitGrant ∨ q.link ≠ .queued g ∨ n ≠ q.requests) : q.takeGrant g n = q := by
  unfold takeGrant
  split
  · next k b d waiting queued bound direction =>
    rw [if_neg]
    rintro ⟨rfl, latest⟩
    simp [waiting, queued, latest] at other
  · rfl

theorem takeRefusal_of_latest (waiting : q.phase = .waitGrant) (queued : q.link = .queued g) (latest : n = q.requests) :
    q.takeRefusal g n = { q.ended .unaddressed with hold := none, lastAnswer := some .nack } := by
  rw [takeRefusal, if_pos ⟨waiting, queued, latest⟩, giveUpBinding_eq]
  simp [refuseAddress, toPhase, dropFetched, answer, endHold, ended, queued, releaseSent]

theorem takeRefusal_of_other (other : q.phase ≠ .waitGrant ∨ q.link ≠ .queued g ∨ n ≠ q.requests) :
    q.takeRefusal g n = q := if_neg fun ⟨waiting, queued, latest⟩ => by
  simp [waiting, queued, latest] at other

end PortCtl

section

variable {s : State} {p : Port} {g : SegIx} {rest : List (SegIx × PortMsg)} {q : PortCtl}

theorem exec_grantTaken_of_firstMessage {n : Nat} (first : firstMessage (s.port p) g (.grant n) rest)
    (taken : ({ s.port p with fromSegments := rest } : PortCtl).takeGrant g n = q) :
    exec (.grantTaken p g) s = .next (s.setPort p q) :=
  congrArg _ (State.takeMessage_of_firstMessage first (congrArg some taken))

theorem exec_refusalTaken_of_firstMessage {n : Nat} (first : firstMessage (s.port p) g (.refusal n) rest)
    (taken : ({ s.port p with fromSegments := rest } : PortCtl).takeRefusal g n = q) :
    exec (.refusalTaken p g) s = .next (s.setPort p q) :=
  congrArg _ (State.takeMessage_of_firstMessage first (congrArg some taken))

theorem exec_writeByteResult_of_firstMessage {ack : Bool} (first : firstMessage (s.port p) g (.writeResult ack) rest)
    (taken : ({ s.port p with fromSegments := rest } : PortCtl).takeWriteResult g ack = q) :
    exec (.writeByteResult p g) s = .next (s.setPort p q) :=
  congrArg _ (State.takeMessage_of_firstMessage first (congrArg some taken))

theorem exec_readByteResult_of_firstMessage {b : Byte} (first : firstMessage (s.port p) g (.readResult b) rest)
    (taken : ({ s.port p with fromSegments := rest } : PortCtl).takeReadResult g b = q) :
    exec (.readByteResult p g) s = .next (s.setPort p q) :=
  congrArg _ (State.takeMessage_of_firstMessage first (congrArg some taken))

theorem exec_ackBitDone_of_firstMessage (first : firstMessage (s.port p) g .ackBitDone rest) :
    exec (.ackBitDone p g) s = .next (s.setPort p { s.port p with fromSegments := rest }) :=
  congrArg _ (State.takeMessage_of_firstMessage first rfl)

/-- The three results that end an ownership, with the events that take them (R76). -/
theorem exec_ending_of_firstMessage {e : Instr × PortMsg}
    (ending : e ∈ [(Instr.lost p g, PortMsg.lost), (.fault p g, .fault), (.cancelled p g, .cancelled)])
    (first : firstMessage (s.port p) g e.2 rest)
    (taken : ({ s.port p with fromSegments := rest } : PortCtl).takeEnding g = q) :
    exec e.1 s = .next (s.setPort p q) := by
  simp only [List.mem_cons, List.not_mem_nil, or_false] at ending
  rcases ending with rfl | rfl | rfl
  all_goals exact congrArg _ (State.takeMessage_of_firstMessage first (congrArg some taken))

end

/-- Settles O26: the answer to the latest request, taken in WAIT_GRANT; every other is discarded. -/
theorem grantsAndRefusalsAreTaken : Obligations.GrantsAndRefusalsAreTaken := by
  intro s p g n rest c
  refine ⟨fun first => ⟨fun b d h w a waiting queued latest bound direction dest => ?_, fun other => ?_⟩,
    fun first => ⟨fun waiting queued latest => ?_, fun other => ?_⟩⟩
  · exact exec_grantTaken_of_firstMessage first (PortCtl.takeGrant_of_latest waiting queued latest bound direction dest)
  · exact exec_grantTaken_of_firstMessage first (PortCtl.takeGrant_of_other other)
  · exact exec_refusalTaken_of_firstMessage first (PortCtl.takeRefusal_of_latest waiting queued latest)
  · exact exec_refusalTaken_of_firstMessage first (PortCtl.takeRefusal_of_other other)

/-! ### Data results (R75, R85, R88) -/

namespace PortCtl

variable {q : PortCtl} {g : SegIx}

theorem takeWriteResult_of_ack (write : q.phase = .write) (owned : q.link = .owned g) :
    q.takeWriteResult g true = { q with hold := none, lastAnswer := some .ack } := by
  rw [takeWriteResult, if_pos ⟨write, owned⟩]
  rfl

theorem takeWriteResult_of_nack (write : q.phase = .write) (owned : q.link = .owned g) :
    q.takeWriteResult g false = { q.ended .absorb with hold := none, lastAnswer := some .nack } := by
  rw [takeWriteResult, if_pos ⟨write, owned⟩, ← refused_absorb_eq owned]
  rfl

theorem takeReadResult_of_held {t : Nat} (read : q.phase = .read) (owned : q.link = .owned g) (held : q.hold = some t)
    (b : Byte) : q.takeReadResult g b =
      { q with hold := none, fetched := some b, shown := true, lastAnswer := some (.byte b) } := by
  rw [takeReadResult, if_pos ⟨read, owned⟩, if_pos (by simp [held])]
  rfl

theorem takeReadResult_of_free (read : q.phase = .read) (owned : q.link = .owned g) (free : q.hold = none) (b : Byte) :
    q.takeReadResult g b = { q with fetched := some b, shown := false } := by
  rw [takeReadResult, if_pos ⟨read, owned⟩, if_neg (by simp [free])]

theorem takeReadResult_of_other (other : q.phase ≠ .read) (b : Byte) : q.takeReadResult g b = q :=
  if_neg fun ⟨read, _⟩ => other read

end PortCtl

/-- Settles O28: each data result at the owner of its segment. -/
theorem dataResultsAreMirrored : Obligations.DataResultsAreMirrored := by
  intro s p g rest owned c
  refine ⟨fun write first => ?_, fun write first => ?_, fun b t first read held => ?_, fun b first read free => ?_,
    fun b first other => ?_, exec_ackBitDone_of_firstMessage⟩
  · exact exec_writeByteResult_of_firstMessage first (PortCtl.takeWriteResult_of_ack write owned)
  · exact exec_writeByteResult_of_firstMessage first (PortCtl.takeWriteResult_of_nack write owned)
  · exact exec_readByteResult_of_firstMessage first (PortCtl.takeReadResult_of_held read owned held b)
  · exact exec_readByteResult_of_firstMessage first (PortCtl.takeReadResult_of_free read owned free b)
  · exact exec_readByteResult_of_firstMessage first (PortCtl.takeReadResult_of_other other b)

/-! ### Results that end the ownership, and stray results (R75, R76, R79, R86, R91, R93) -/

namespace PortCtl

variable {q : PortCtl} {g : SegIx}

theorem endHoldOwnAnswer_eq (q : PortCtl) :
    q.endHoldOwnAnswer = { q with
      hold := none, lastAnswer := if q.hold = none then q.lastAnswer else some q.ownAnswer } := by
  unfold endHoldOwnAnswer
  split
  · next held => rw [if_neg (by rintro free; simp [free] at held)]; rfl
  · next unheld =>
    have free : q.hold = none := by simpa using unheld
    rw [if_pos free, ← free]

theorem takeEnding_of_proxy (owned : q.link = .owned g) (proxy : q.phase = .proxy) :
    q.takeEnding g = { ({ q with link := .none } : PortCtl).ended .unaddressed with
      hold := none, lastAnswer := some .nack } := by
  simp [takeEnding, owned, proxy, giveUpBinding_eq, refuseAddress, toPhase, dropFetched, answer, endHold, ended, releaseSent]

theorem takeEnding_of_data (owned : q.link = .owned g) (data : q.phase ∈ [Phase.write, .read, .ending]) :
    q.takeEnding g = { ({ q with link := .none } : PortCtl).ended .absorb with
      hold := none, lastAnswer := if q.hold = none then q.lastAnswer else some q.ownAnswer } := by
  have absorbed : q.takeEnding g = ({ q with link := .none } : PortCtl).endHoldOwnAnswer.giveUpBinding.toPhase .absorb := by
    rw [takeEnding, if_pos owned]
    simp only [List.mem_cons, List.not_mem_nil, or_false] at data
    rcases data with phase | phase | phase <;> rw [phase]
  rw [absorbed, endHoldOwnAnswer_eq, giveUpBinding_eq]
  simp [toPhase, dropFetched, ended, releaseSent, ownAnswer]

theorem takeEnding_of_carried (owned : q.link = .owned g) (carried : q.phase = .address ∨ q.phase = .tenLow) :
    q.takeEnding g = { q with link := .none } := by
  rw [takeEnding, if_pos owned]
  rcases carried with phase | phase <;> rw [phase]

section

variable (stray : q.link ≠ .owned g)
include stray

theorem takeAddressAck_of_stray : q.takeAddressAck g = q := if_neg fun ⟨_, owned⟩ => stray owned

theorem takeAddressNack_of_stray : q.takeAddressNack g = q := if_neg fun ⟨_, owned⟩ => stray owned

theorem takeWriteResult_of_stray (ack : Bool) : q.takeWriteResult g ack = q := if_neg fun ⟨_, owned⟩ => stray owned

theorem takeReadResult_of_stray (b : Byte) : q.takeReadResult g b = q := if_neg fun ⟨_, owned⟩ => stray owned

theorem takeEnding_of_stray : q.takeEnding g = q := if_neg stray

end

end PortCtl

/-- Settles O29: the results that end an ownership, by the phase that they find; and every result at a context that does not own
their segment. -/
theorem endingResultsEndTheOwnershipAndStrayResultsAreDiscarded :
    Obligations.EndingResultsEndTheOwnershipAndStrayResultsAreDiscarded := by
  refine ⟨fun s p g rest owned e ending first => ?_, fun s p g rest stray => ?_⟩
  · let q : PortCtl := { s.port p with fromSegments := rest }
    have byPhase := fun r (taken : q.takeEnding g = r) => exec_ending_of_firstMessage ending first taken
    have answered (ph : Phase) (phase : q.phase = ph) : q.ownAnswer = if ph = .read then .byte 0xFF#8 else .nack := by
      rw [PortCtl.ownAnswer_eq, phase]
    refine ⟨fun proxy => ?_, fun data => ?_, fun read => ?_, fun carried => ?_⟩
    · exact byPhase _ (PortCtl.takeEnding_of_proxy owned proxy)
    · rcases data with phase | phase
      · have data := PortCtl.takeEnding_of_data (q := q) owned (by simp [show q.phase = .write from phase])
        rw [answered .write phase] at data
        exact byPhase _ data
      · have data := PortCtl.takeEnding_of_data (q := q) owned (by simp [show q.phase = .ending from phase])
        rw [answered .ending phase] at data
        exact byPhase _ data
    · have data := PortCtl.takeEnding_of_data (q := q) owned (by simp [show q.phase = .read from read])
      rw [answered .read read] at data
      exact byPhase _ data
    · exact byPhase _ (PortCtl.takeEnding_of_carried owned carried)
  · intro c b e result first
    simp only [List.mem_cons, List.not_mem_nil, or_false] at result
    rcases result with rfl | rfl | rfl | rfl | rfl | rfl | rfl | rfl | rfl
    · exact exec_addressAck_of_firstMessage first (PortCtl.takeAddressAck_of_stray stray)
    · exact exec_addressNack_of_firstMessage first (PortCtl.takeAddressNack_of_stray stray)
    · exact exec_writeByteResult_of_firstMessage first (PortCtl.takeWriteResult_of_stray (q := c) stray true)
    · exact exec_writeByteResult_of_firstMessage first (PortCtl.takeWriteResult_of_stray (q := c) stray false)
    · exact exec_readByteResult_of_firstMessage first (PortCtl.takeReadResult_of_stray (q := c) stray b)
    · exact exec_ackBitDone_of_firstMessage first
    all_goals exact exec_ending_of_firstMessage (by simp) first (PortCtl.takeEnding_of_stray stray)

end Sys2Proof.Machine
end

section
/-! The command interpreter and the change set (06, 08, 10.5): answers, frames handed over, STAGE to ABANDON, RENEW and REVIVE. -/

namespace Sys2Proof.Machine

theorem otherPort_ne (p : Port) : otherPort p ≠ p := by cases p <;> decide

/-! ### Answers and frames (R70, R177 to R179, R181) -/

/-- Settles O42: an answer written at once is the response write, a later one stays with the execution. -/
theorem answersReplaceTheResponseBuffer : Obligations.AnswersReplaceTheResponseBuffer := by
  refine fun s p r => ⟨writeResponse_eq s p r, fun e execution => ?_⟩
  simp only [State.reply, execution, Option.map_some]

theorem judgeFrame_of_overflow {f : Frame} (overflow : f.overflow = true) : judgeFrame f = .error .badFrame := if_pos overflow

section

variable {f : Frame} {code : Byte} {payload : List Byte} (whole : f.overflow = false) (bytes : f.bytes = code :: payload)
include whole bytes

theorem judgeFrame_of_unknown (unknown : codeOf code = none) : judgeFrame f = .error .unknown := by
  simp [judgeFrame, whole, bytes, unknown]

theorem judgeFrame_of_code {n : Nat} {k : Code} (known : codeOf code = some (n, k)) :
    judgeFrame f = if f.bytes.length = n then commandOf k payload else .error .badFrame := by
  simp [judgeFrame, whole, bytes, known]

end

section

variable {s : State} {p : Port} {f : Frame}

theorem exec_handOver_of_frame (handed : (s.port p).handedOver = some f) (sent : (s.port p).toTable = [])
    (idle : (s.interpOf p).execution = none) : exec (.handOver p) s = .next (s.takeFrame p f) := by
  change execHandOver p s = _
  simp only [execHandOver, handed, sent, idle]

theorem takeFrame_of_refused {st : Status} (refused : judgeFrame f = .error st) :
    s.takeFrame p f = (s.setPort p { s.port p with handedOver := none }).reply p .atOnce (.done st []) := by
  simp only [State.takeFrame, refused]
  rfl

theorem takeFrame_of_passed {c : Command} (passed : judgeFrame f = .ok c) (plain : c ≠ .restart) :
    s.takeFrame p f = (s.setPort p { s.port p with handedOver := none }).setInterp p
      { s.interpOf p with execution := some { frame := f, progress := .passed c } } := by
  simp only [State.takeFrame, passed]
  cases c
  case restart => exact absurd rfl plain
  all_goals rfl

theorem takeFrame_of_restart (passed : judgeFrame f = .ok .restart) :
    s.takeFrame p f = ((s.setPort p { s.port p with handedOver := none }).setInterp p
        { s.interpOf p with execution := some { frame := f, progress := .passed .restart } }).setPort (otherPort p)
      { s.port (otherPort p) with restartWait := true, restartDone := false } := by
  have other : (s.setPort p { s.port p with handedOver := none }).port (otherPort p) = s.port (otherPort p) := by
    rw [State.port_setPort, if_neg (otherPort_ne p)]
  rw [← other]
  simp only [State.takeFrame, passed]
  rfl

end

/-- Settles O38: the checks of the whole frame, then those of its fields. -/
theorem handedOverFramesAreJudged : Obligations.HandedOverFramesAreJudged := by
  intro s p f handed sent idle d
  rw [exec_handOver_of_frame handed sent idle]
  refine ⟨fun overflow => ?_, fun code payload whole bytes => ⟨fun unknown => ?_, fun n k known => ?_⟩⟩
  · rw [takeFrame_of_refused (judgeFrame_of_overflow overflow)]
  · rw [takeFrame_of_refused (judgeFrame_of_unknown whole bytes unknown)]
  have judged := judgeFrame_of_code whole bytes known
  refine ⟨fun length => ?_, fun st length fields => ?_, fun c length fields plain => ?_, fun length fields => ?_⟩
  · rw [takeFrame_of_refused (judged.trans (if_neg length))]
  · rw [takeFrame_of_refused (judged.trans ((if_pos length).trans fields))]
  · rw [takeFrame_of_passed (judged.trans ((if_pos length).trans fields)) plain]
  · rw [takeFrame_of_restart (judged.trans ((if_pos length).trans fields))]

/-! ### Who may command the change set, and its deadline (R130 to R132) -/

namespace State

variable {s : State} {p : Port}

theorem heldByOther_of_may (may : mayCommand s p) : s.heldByOther p = false := by
  rcases may with empty | ⟨d, opened⟩
  · simp [heldByOther, empty]
  · simp [heldByOther, opened]

theorem heldByOther_of_opened {o : Port} {d : Option Nat} (opened : s.changeSet = .opened o d) (other : o ≠ p) :
    s.heldByOther p = true := by
  simp [heldByOther, opened, other]

theorem reloadIdle_eq_touched (s : State) : s.reloadIdle = { s with changeSet := touched s } := by
  rw [reloadIdle_eq]
  unfold touched
  cases s.changeSet <;> rfl

theorem reloadIdle_setSlot (s : State) (k : SlotIx) (x : Slot) : (s.setSlot k x).reloadIdle = s.reloadIdle.setSlot k x := by
  simp only [reloadIdle_eq_touched]
  rfl

end State

/-! ### STAGE and UNSTAGE (R133 to R135) -/

section

variable {s : State} {p : Port} {t : ReplyTime}

theorem exec_stage_of_passed {k : SlotIx} {i : Image} (passed : s.passedCommand p = some (.stage k i)) {r : State × Result}
    (taken : s.takeStage p k i = r) : exec (.stage p t) s = .next (r.1.reply p t r.2) := by
  change execStage p t s = _
  simp only [execStage, passed, taken]
  rfl

theorem exec_unstage_of_passed {k : SlotIx} (passed : s.passedCommand p = some (.unstage k)) {r : State × Result}
    (taken : s.takeUnstage p k = r) : exec (.unstage p t) s = .next (r.1.reply p t r.2) := by
  change execUnstage p t s = _
  simp only [execUnstage, passed, taken]
  rfl

end

/-- Settles O43: the two commands check by check. -/
theorem stageAndUnstageWriteTheSlot : Obligations.StageAndUnstageWriteTheSlot := by
  intro s p t k u x
  refine ⟨fun i passed => ⟨fun o d opened other => ?_, fun may busy => ?_, fun n may free fails => ?_, fun may free valid => ?_⟩,
    fun passed => ⟨fun o d opened other => ?_, fun may busy => ?_, fun may staged => ?_⟩⟩
  · refine exec_stage_of_passed (r := (s, .done .changesetBusy [])) passed ?_
    rw [State.takeStage, if_pos (State.heldByOther_of_opened opened other)]
    rfl
  · refine exec_stage_of_passed (r := (u, .done .slotBusy [])) passed ?_
    rw [State.takeStage, State.heldByOther_of_may may, if_neg (by simp), if_pos busy, State.reloadIdle_eq_touched]
    rfl
  · refine exec_stage_of_passed (r := (u, .done .badRecord [n])) passed ?_
    rw [State.takeStage, State.heldByOther_of_may may, if_neg (by simp), if_neg (not_not.mpr free), fails,
      State.reloadIdle_eq_touched]
  · refine exec_stage_of_passed (r := (_, .done .ok [x.gen + 1#8])) passed ?_
    rw [State.takeStage, State.heldByOther_of_may may, if_neg (by simp), if_neg (not_not.mpr free), valid]
    rfl
  · refine exec_unstage_of_passed (r := (s, .done .changesetBusy [])) passed ?_
    rw [State.takeUnstage, if_pos (State.heldByOther_of_opened opened other)]
    rfl
  · refine exec_unstage_of_passed (r := (u, .done .slotBusy [])) passed ?_
    rw [State.takeUnstage, State.heldByOther_of_may may, if_neg (by simp), if_pos busy, State.reloadIdle_eq_touched]
    rfl
  · refine exec_unstage_of_passed (r := (_, .done .ok [])) passed ?_
    rw [State.takeUnstage, State.heldByOther_of_may may, if_neg (by simp), if_neg (not_not.mpr staged),
      State.reloadIdle_setSlot, State.reloadIdle_eq_touched]
    rfl

/-! ### MARK and UNMARK (R136, R137) -/

namespace State

/-- A change of the retirement mark: the checks that MARK and UNMARK share, and the state that a pass leaves. -/
def takeRemark (s : State) (p : Port) (k : SlotIx) (gen : BitVec 8) (passing : State) : State × Result :=
  if s.heldByOther p then (s, plain .changesetBusy)
  else if !(s.slot k).inService then (s.reloadIdle, plain .slotBusy)
  else if (s.slot k).gen ≠ gen then (s.reloadIdle, plain .stale)
  else (passing, plain .ok)

theorem takeMark_eq (s : State) (p : Port) (k : SlotIx) (gen : BitVec 8) :
    s.takeMark p k gen = s.takeRemark p k gen
      ({ s with changeSet := .opened p (freshDeadline s) }.setSlot k { s.slot k with mark := true }) := rfl

theorem takeUnmark_eq (s : State) (p : Port) (k : SlotIx) (gen : BitVec 8) :
    s.takeUnmark p k gen = s.takeRemark p k gen
      ({ s with changeSet := touched s }.setSlot k { s.slot k with mark := false }) := by
  rw [← reloadIdle_eq_touched, ← reloadIdle_setSlot]
  rfl

variable {s : State} {p : Port} {k : SlotIx} {gen : BitVec 8} {passing : State}

theorem takeRemark_of_opened {o : Port} {d : Option Nat} (opened : s.changeSet = .opened o d) (other : o ≠ p) :
    s.takeRemark p k gen passing = (s, .done .changesetBusy []) := if_pos (heldByOther_of_opened opened other)

theorem takeRemark_of_busy (may : mayCommand s p) (busy : ¬ serves (s.slot k)) :
    s.takeRemark p k gen passing = ({ s with changeSet := touched s }, .done .slotBusy []) := by
  rw [takeRemark, heldByOther_of_may may, if_neg (by simp), if_pos (by
    rw [Bool.not_eq_true', ← Bool.not_eq_true, Slot.inService_iff]; exact busy), reloadIdle_eq_touched]
  rfl

theorem takeRemark_of_service (may : mayCommand s p) (service : serves (s.slot k)) :
    s.takeRemark p k gen passing = if (s.slot k).gen ≠ gen then ({ s with changeSet := touched s }, .done .stale [])
      else (passing, .done .ok []) := by
  rw [takeRemark, heldByOther_of_may may, if_neg (by simp), (Slot.inService_iff _).mpr service, if_neg (by simp),
    reloadIdle_eq_touched]
  rfl

end State

/-- What the two rows of a mark command do, once the command is passed on to the table manager. -/
theorem exec_remark {s : State} {p : Port} {t : ReplyTime} {k : SlotIx} {gen : BitVec 8} {e : Instr × Command}
    (row : e ∈ [(Instr.mark p t, Command.mark k gen), (.unmark p t, .unmark k gen)]) (passed : s.passedCommand p = some e.2) :
    ∃ passing, (∀ r, s.takeRemark p k gen passing = r → exec e.1 s = .next (r.1.reply p t r.2)) ∧
      (e.1 = .mark p t → passing = { s with changeSet := .opened p (freshDeadline s) }.setSlot k { s.slot k with mark := true }) ∧
      (e.1 = .unmark p t → passing = { s with changeSet := touched s }.setSlot k { s.slot k with mark := false }) := by
  simp only [List.mem_cons, List.not_mem_nil, or_false] at row
  rcases row with rfl | rfl
  · refine ⟨_, fun r taken => ?_, fun _ => rfl, nofun⟩
    change execMark p t s = _
    simp only [execMark, passed, State.takeMark_eq, taken]
    rfl
  · refine ⟨_, fun r taken => ?_, nofun, fun _ => rfl⟩
    change execUnmark p t s = _
    simp only [execUnmark, passed, State.takeUnmark_eq, taken]
    rfl

/-- Settles O44: the checks that the two commands share, and the slot that each leaves. -/
theorem markAndUnmarkChangeTheRetirementMark : Obligations.MarkAndUnmarkChangeTheRetirementMark := by
  intro s p t k gen e row passed u x
  obtain ⟨passing, answers, marks, unmarks⟩ := exec_remark row passed
  refine ⟨fun o d opened other => ?_, fun may busy => ?_, fun may service stale => ?_, fun may service same mark => ?_,
    fun may service same unmark => ?_⟩
  · exact answers _ (State.takeRemark_of_opened opened other)
  · exact answers _ (State.takeRemark_of_busy may busy)
  · exact answers _ ((State.takeRemark_of_service may service).trans (if_pos stale))
  · rw [answers _ ((State.takeRemark_of_service may service).trans (if_neg (not_not.mpr same))), marks mark]
  · rw [answers _ ((State.takeRemark_of_service may service).trans (if_neg (not_not.mpr same))), unmarks unmark]

/-! ### ABANDON (R149) -/

theorem exec_abandon_of_passed {s : State} {p : Port} {t : ReplyTime} (passed : s.passedCommand p = some .abandon)
    {r : State × Result} (taken : s.takeAbandon p = r) : exec (.abandon p t) s = .next (r.1.reply p t r.2) := by
  change execAbandon p t s = _
  simp only [execAbandon, passed, taken]
  rfl

/-- Settles O46: the change set EMPTY, another port's, or the port's own. -/
theorem abandonDiscardsTheChangeSet : Obligations.AbandonDiscardsTheChangeSet := by
  intro s p t passed count
  refine ⟨fun empty => ?_, fun o d opened other => ?_, fun d opened => ?_⟩
  · refine exec_abandon_of_passed (r := (s, .done .ok [0#8, 0#8])) passed ?_
    simp only [State.takeAbandon, empty]
  · refine exec_abandon_of_passed (r := (s, .done .changesetBusy [])) passed ?_
    simp only [State.takeAbandon, opened, if_pos other]
    rfl
  · refine exec_abandon_of_passed (r := (_, .done .ok [_, _])) passed ?_
    simp only [State.takeAbandon, opened, ne_eq, not_true_eq_false, if_false]
    rfl

/-! ### RENEW and REVIVE (R157, R162, R172) -/

/-- A lease just reloaded shows its whole lifetime (R157, R159). -/
theorem seconds_freshLease (now : Nat) (r : Record) {n : BitVec 16} (lifetime : r.lifetime = some n) (nonzero : n ≠ 0#16)
    (count : Nat) (old : Lease) : (freshLease now r count old).seconds now = n.toNat := by
  have positive : 1 ≤ n.toNat := Nat.one_le_iff_ne_zero.mpr fun zero => nonzero (BitVec.eq_of_toNat_eq zero)
  unfold freshLease
  simp only [lifetime]
  split
  · simp only [Lease.seconds, unitsRoundedUp_second]
    omega
  · simp only [Lease.seconds, unitsRoundedUp_second]
    omega

theorem Record.lifetime_ne_zero {r : Record} (h : r.valid) : r.lifetime ≠ some 0#16 :=
  present_orZero_ne _ (congrArg Record.lifetime h.1)

/-- The bytes of a lifetime, most significant first (R208). -/
theorem lifetimeBytes_toNat (n : BitVec 16) : lifetimeBytes n.toNat = [n.extractLsb' 8 8, n.extractLsb' 0 8] := by
  simp [lifetimeBytes, twoBytes]

section

variable {s : State} {p : Port} {t : ReplyTime} {k : SlotIx} {gen : BitVec 8}

theorem exec_renew_of_passed (passed : s.passedCommand p = some (.renew k gen)) {r : State × Result}
    (taken : s.takeRenew k gen = r) : exec (.renew p t) s = .next (r.1.reply p t r.2) := by
  change execRenew p t s = _
  simp only [execRenew, passed, taken]
  rfl

theorem exec_revive_of_passed (passed : s.passedCommand p = some (.revive k gen)) {r : State × Result}
    (taken : s.takeRevive k gen = r) : exec (.revive p t) s = .next (r.1.reply p t r.2) := by
  change execRevive p t s = _
  simp only [execRevive, passed, taken]
  rfl

/-- The two refusals of RENEW, and its pass. -/
theorem takeRenew_of_busy (busy : ¬ serves (s.slot k) ∨ ∃ r, (s.slot k).record = some r ∧ r.lifetime = none) :
    s.takeRenew k gen = (s, .done .slotBusy []) := by
  have fails : (!(s.slot k).inService || !((s.slot k).recordIs fun r => r.lifetime.isSome)) = true := by
    rcases busy with idle | ⟨r, record, none⟩
    · have idle : (s.slot k).inService = false := by
        rw [← Bool.not_eq_true, Slot.inService_iff]
        exact idle
      simp [idle]
    · simp [Slot.recordIs, record, none]
  rw [State.takeRenew, if_pos fails]
  rfl

theorem takeRenew_of_leased {r : Record} {n : BitVec 16} (service : serves (s.slot k)) (record : (s.slot k).record = some r)
    (lifetime : r.lifetime = some n) (nonzero : n ≠ 0#16) :
    s.takeRenew k gen = if (s.slot k).gen ≠ gen then (s, .done .stale [])
      else (s.setSlot k { s.slot k with lease := freshLease s.now r (s.slot k).inflight (s.slot k).lease },
        .done .ok [n.extractLsb' 8 8, n.extractLsb' 0 8]) := by
  have passes : (!(s.slot k).inService || !((s.slot k).recordIs fun r => r.lifetime.isSome)) = false := by
    simp [(Slot.inService_iff _).mpr service, Slot.recordIs, record, lifetime]
  rw [State.takeRenew, passes, if_neg (by simp)]
  simp only [Slot.reloaded_eq record, State.lifetimeOf, State.slot_setSlot_same, State.setSlot_now,
    seconds_freshLease s.now r lifetime nonzero, lifetimeBytes_toNat]
  rfl

theorem takeRevive_of_other (other : (s.slot k).state ≠ .quarantined) : s.takeRevive k gen = (s, .done .slotBusy []) :=
  if_pos other

theorem takeRevive_of_quarantined {r : Record} (ok : slotOk (s.slot k)) (quarantined : (s.slot k).state = .quarantined)
    (record : (s.slot k).record = some r) :
    s.takeRevive k gen = if (s.slot k).gen ≠ gen then (s, .done .stale [])
      else (s.setSlot k { s.slot k with
          state := .live, strikes := 0, lease := freshLease s.now r (s.slot k).inflight (s.slot k).lease },
        .done .ok [(r.lifetime.getD 0#16).extractLsb' 8 8, (r.lifetime.getD 0#16).extractLsb' 0 8]) := by
  have revived : (s.slot k).revived s.now = { s.slot k with
      state := .live, strikes := 0, lease := freshLease s.now r (s.slot k).inflight (s.slot k).lease } :=
    Slot.reloaded_eq (x := { s.slot k with state := .live, strikes := 0 }) record s.now
  have valid := Slot.record_valid ok record
  have seconds : (freshLease s.now r (s.slot k).inflight (s.slot k).lease).seconds s.now = (r.lifetime.getD 0#16).toNat := by
    cases lifetime : r.lifetime with
    | some n => exact seconds_freshLease s.now r lifetime (fun zero => Record.lifetime_ne_zero valid (by rw [lifetime, zero])) _ _
    | none =>
      simp only [slotOk, quarantined] at ok
      obtain ⟨a, -, -, same, lease, -⟩ := ok
      cases same.symm.trans record
      simp [freshLease, lifetime, Slot.leaseOk_none lease lifetime, Lease.seconds]
  rw [State.takeRevive, if_neg (not_not.mpr quarantined)]
  simp only [revived, State.lifetimeOf, State.slot_setSlot_same, State.setSlot_now, seconds, lifetimeBytes_toNat]
  rfl

end

/-- Settles O47: the refusals in their order, and the lease that a pass reloads and answers. -/
theorem renewAndReviveReloadTheLease : Obligations.RenewAndReviveReloadTheLease := by
  intro s p t k gen ok x bytes
  have nonzero {r : Record} {n : BitVec 16} (record : x.record = some r) (lifetime : r.lifetime = some n) : n ≠ 0#16 :=
    fun zero => Record.lifetime_ne_zero (Slot.record_valid ok record) (by rw [lifetime, zero])
  refine ⟨fun passed => ⟨fun busy => ?_, fun r n service record lifetime stale => ?_, fun r n service record lifetime same => ?_⟩,
    fun passed => ⟨fun other => ?_, fun quarantined stale => ?_, fun r quarantined record same => ?_⟩⟩
  · exact exec_renew_of_passed passed (takeRenew_of_busy busy)
  · exact exec_renew_of_passed passed
      ((takeRenew_of_leased service record lifetime (nonzero record lifetime)).trans (if_pos stale))
  · exact exec_renew_of_passed passed
      ((takeRenew_of_leased service record lifetime (nonzero record lifetime)).trans (if_neg (not_not.mpr same)))
  · exact exec_revive_of_passed passed (takeRevive_of_other other)
  · refine exec_revive_of_passed (r := (s, .done .stale [])) passed ?_
    rw [State.takeRevive, if_neg (not_not.mpr quarantined), if_pos stale]
    rfl
  · exact exec_revive_of_passed passed ((takeRevive_of_quarantined ok quarantined record).trans (if_neg (not_not.mpr same)))

end Sys2Proof.Machine
end

section
/-! COMMIT, the configuration and read commands, the notices, and the codes and levels of the tables (06, 08 to 10). -/

namespace Sys2Proof.Machine

/-! ### The resulting in-service set and its duplicates (R140 to R143) -/

theorem Slot.resulting_iff (x : Slot) : x.resulting = true ↔ x.state = .staged ∨ (serves x ∧ x.mark = false) := by
  simp [resulting, inService_iff, serves]

theorem Record.duplicates_iff (a b : Record) :
    a.duplicates b = true ↔ a.width = b.width ∧ a.mask = b.mask ∧ a.AgreeAtFixed a.key b.key ∧
      ∃ port, a.ports.get port = true ∧ b.ports.get port = true := by
  have shared : (∃ port, a.ports.get port = true ∧ b.ports.get port = true) ↔
      (a.ports.u0 = true ∧ b.ports.u0 = true) ∨ (a.ports.u1 = true ∧ b.ports.u1 = true) := by
    refine ⟨?_, ?_⟩
    · rintro ⟨port, both⟩
      cases port with
      | u0 => exact .inl both
      | u1 => exact .inr both
    · rintro (both | both)
      · exact ⟨.u0, both⟩
      · exact ⟨.u1, both⟩
  rw [shared]
  simp [duplicates, xor_and_fixedMask_eq_zero, and_assoc]

namespace State

variable {s : State}

theorem duplicatePair_iff (i j : SlotIx) :
    s.duplicatePair i j = true ↔ i ≠ j ∧ (s.slot i).resulting = true ∧ (s.slot j).resulting = true ∧
      ∃ a b, (s.slot i).record = some a ∧ (s.slot j).record = some b ∧ a.duplicates b = true := by
  simp only [duplicatePair, Slot.recordIs, Bool.and_eq_true, bne_iff_ne, Option.any_eq_true, and_assoc]
  refine and_congr_right fun _ => and_congr_right fun _ => and_congr_right fun _ => ⟨?_, ?_⟩
  · rintro ⟨a, left, b, right, both⟩
    exact ⟨a, b, left, right, both⟩
  · rintro ⟨a, b, left, right, both⟩
    exact ⟨a, left, b, right, both⟩

/-- The first index at which a search over all of them succeeds. -/
theorem findSome?_finRange {n : Nat} {β : Type} {f : Fin n → Option β} {i : Fin n} {b : β} (found : f i = some b)
    (before : ∀ j, j < i → f j = none) : (List.finRange n).findSome? f = some b := by
  have split : List.finRange n = (List.finRange n).take i ++ i :: (List.finRange n).drop (i + 1) := by
    have within : (i : Nat) < (List.finRange n).length := by simp
    have here : (List.finRange n)[(i : Nat)] = i := by simp
    conv_lhs => rw [← List.take_append_drop i (List.finRange n), List.drop_eq_getElem_cons within, here]
  rw [List.findSome?_eq_some_iff]
  refine ⟨_, i, _, split, found, fun j earlier => before j ?_⟩
  obtain ⟨m, below, rfl⟩ := List.mem_take_iff_getElem.mp earlier
  simp only [List.getElem_finRange, Fin.lt_def, Fin.val_cast]
  exact (lt_min_iff.mp below).1

theorem firstDuplicateOf_eq_some {i j : SlotIx} (pair : s.duplicatePair i j = true)
    (lowest : ∀ k, s.duplicatePair i k = true → j ≤ k) : s.firstDuplicateOf i = some j := by
  rw [firstDuplicateOf, ← List.findSome?_guard]
  refine findSome?_finRange (i := j) (b := j) (by simp [Option.guard, pair]) fun k below => ?_
  have none : ¬ s.duplicatePair i k = true := fun other => absurd (lowest k other) (not_le.mpr below)
  simp [Option.guard, none]

theorem firstDuplicateOf_eq_none {i : SlotIx} (none : ∀ j, ¬ s.duplicatePair i j = true) : s.firstDuplicateOf i = .none :=
  List.find?_eq_none.mpr fun j _ => none j

/-- The pair that a commit names (R142). -/
theorem duplicateFound_eq_some {i j : SlotIx} (pair : s.duplicatePair i j = true)
    (lowest : ∀ k l, s.duplicatePair k l = true → i ≤ k) (partner : ∀ k, s.duplicatePair i k = true → j ≤ k) :
    s.duplicateFound = some (i, j) := by
  refine findSome?_finRange (by rw [firstDuplicateOf_eq_some pair partner]; rfl) fun k below => ?_
  rw [firstDuplicateOf_eq_none fun l other => absurd (lowest k l other) (not_le.mpr below)]
  rfl

theorem duplicateFound_eq_none (none : ∀ i j, ¬ s.duplicatePair i j = true) : s.duplicateFound = .none :=
  List.findSome?_eq_none_iff.mpr fun i _ => by rw [firstDuplicateOf_eq_none (none i)]; rfl

theorem staysManaged_iff (p : Port) :
    s.staysManaged p = true ↔ ∃ k r, (s.slot k).resulting = true ∧ (s.slot k).record = some r ∧ r.target = .localPart ∧
      r.ports.get p = true := by
  simp [staysManaged, Slot.recordIs, Option.any_eq_true, Record.manages]

end State

/-! ### COMMIT (R139 to R147) -/

theorem Slot.reloaded_eq_match (x : Slot) (now : Nat) :
    x.reloaded now = { x with lease := match x.record with
      | some r => freshLease now r x.inflight x.lease
      | none => x.lease } := by
  obtain ⟨state, record, mark, gen, inflight, strikes, lease⟩ := x
  cases record with
  | none => rfl
  | some r => exact reloaded_eq rfl now

theorem Slot.committed_eq (x : Slot) (now : Nat) :
    x.committed now =
      if x.state = SlotState.staged then
        { x with
          state := .live, strikes := 0,
          lease := match x.record with
            | some r => freshLease now r x.inflight x.lease
            | none => x.lease }
      else if x.mark = true then
        if x.inflight = 0 then
          { state := .free, record := none, mark := false, gen := x.gen, inflight := 0, strikes := 0, lease := .none }
        else { x with state := .draining, mark := false }
      else x := by
  unfold committed
  split
  · exact reloaded_eq_match { x with state := .live, strikes := 0 } now
  · rfl

theorem State.applyChangeSet_eq (s : State) :
    s.applyChangeSet = { s with
      changeSet := .empty,
      table := s.table.map fun (x : Slot) =>
        if x.state = SlotState.staged then
          { x with
            state := .live, strikes := 0,
            lease := match x.record with
              | some r => freshLease s.now r x.inflight x.lease
              | none => x.lease }
        else if x.mark = true then
          if x.inflight = 0 then
            { state := .free, record := none, mark := false, gen := x.gen, inflight := 0, strikes := 0, lease := .none }
          else { x with state := .draining, mark := false }
        else x } := by
  rw [applyChangeSet, funext fun x => Slot.committed_eq x s.now]
  rfl

section

variable {s : State} {p : Port} {t : ReplyTime}

theorem exec_commit_of_passed (passed : s.passedCommand p = some .commit) {r : State × Result} (taken : s.takeCommit p = r) :
    exec (.commit p t) s = .next (r.1.reply p t r.2) := by
  change execCommit p t s = _
  simp only [execCommit, passed, taken]
  rfl

theorem takeCommit_of_other {o : Port} {d : Option Nat} (opened : s.changeSet = .opened o d) (other : o ≠ p) :
    s.takeCommit p = (s, .done .changesetBusy []) := by
  simp only [State.takeCommit, opened, if_pos other]
  rfl

variable {d : Option Nat} (opened : s.changeSet = .opened p d)
include opened

theorem takeCommit_of_duplicate {i j : SlotIx} (found : s.duplicateFound = some (i, j)) :
    s.takeCommit p = ({ s with changeSet := touched s }, .done .duplicateMatch [byteOf i.val, byteOf j.val]) := by
  simp only [State.takeCommit, opened, ne_eq, not_true_eq_false, if_false, found, State.reloadIdle_eq_touched]

theorem takeCommit_of_orphan {port : Port} (unique : s.duplicateFound = none) (found : s.orphanFound = some port) :
    s.takeCommit p = ({ s with changeSet := touched s }, .done .orphanPort [portCode port]) := by
  simp only [State.takeCommit, opened, ne_eq, not_true_eq_false, if_false, unique, found, State.reloadIdle_eq_touched]

theorem takeCommit_of_valid (unique : s.duplicateFound = none) (managed : s.orphanFound = none) :
    s.takeCommit p = (s.applyChangeSet, .done .ok s.commitCounts) := by
  simp only [State.takeCommit, opened, ne_eq, not_true_eq_false, if_false, unique, managed]

end

/-- Settles O45: the two validations in their order, then the change of every slot in one event. -/
theorem commitValidatesAndApplies : Obligations.CommitValidatesAndApplies := by
  intro s p t passed resulting width duplicate managed u count
  have pair (i j : SlotIx) : s.duplicatePair i j = true ↔ duplicate i j := by
    have positions (r : Record) : r.width.positions = width r := by cases w : r.width <;> simp [width, w, Width.positions]
    simp only [State.duplicatePair_iff, Slot.resulting_iff, Record.duplicates_iff, Record.AgreeAtFixed, positions]
    rfl
  have manages (port : Port) : s.staysManaged port = true ↔ managed port := by
    simp only [State.staysManaged_iff, Slot.resulting_iff]
    rfl
  have unique (none : ∀ i j, ¬ duplicate i j) : s.duplicateFound = .none :=
    State.duplicateFound_eq_none fun i j => by rw [pair]; exact none i j
  refine ⟨fun empty => ?_, fun o d opened other => exec_commit_of_passed passed (takeCommit_of_other opened other),
    fun d opened => ⟨fun i j found lowest partner => ?_, fun none unmanaged => ?_, fun none managed0 unmanaged => ?_,
      fun none managed0 managed1 => ?_⟩⟩
  · refine exec_commit_of_passed (r := (s, .done .ok [0#8, 0#8, 0#8])) passed ?_
    simp only [State.takeCommit, empty]
  · refine exec_commit_of_passed passed (takeCommit_of_duplicate opened (State.duplicateFound_eq_some ((pair i j).mpr found)
      (fun k l other => lowest k l ((pair k l).mp other)) fun k other => partner k ((pair i k).mp other)))
  · have orphan : s.orphanFound = some .u0 := by
      rw [← manages, Bool.not_eq_true] at unmanaged
      simp [State.orphanFound, unmanaged]
    exact exec_commit_of_passed passed (takeCommit_of_orphan opened (unique none) orphan)
  · have orphan : s.orphanFound = some .u1 := by
      rw [← manages, Bool.not_eq_true] at unmanaged
      simp [State.orphanFound, unmanaged, (manages _).mpr managed0]
    exact exec_commit_of_passed passed (takeCommit_of_orphan opened (unique none) orphan)
  · have noOrphan : s.orphanFound = .none := by
      simp [State.orphanFound, (manages _).mpr managed0, (manages _).mpr managed1]
    rw [exec_commit_of_passed passed (takeCommit_of_valid opened (unique none) noOrphan), State.applyChangeSet_eq]
    rfl

/-! ### Notices and ALERT (R200, R201, R204, R205) -/

theorem Kind.exists_number (i : Fin 8) : ∃ k : Kind, k.number = i := by
  have listed : ∀ i : Fin 8, ∃ k ∈ [Kind.miss, .holdTimeout, .changesetExpired, .routeQuarantined, .routeExpired, .routeDrained,
    .segmentFault, .segmentCleared], k.number = i := by decide
  obtain ⟨k, -, number⟩ := listed i
  exact ⟨k, number⟩

theorem alertLevel_iff (notices : Vector Note 8) (mask : Byte) :
    alertLevel notices mask = true ↔
      ∃ k : Kind, (notices.get k.number).present = true ∧ mask.getLsbD k.number.val = true := by
  simp only [alertLevel, List.any_eq_true, List.mem_finRange, true_and, Bool.and_eq_true, maskSelects]
  constructor
  · rintro ⟨i, both⟩
    obtain ⟨k, rfl⟩ := Kind.exists_number i
    exact ⟨k, both⟩
  · rintro ⟨k, both⟩
    exact ⟨k.number, both⟩

theorem getLsbD_memberBit (m : Fin 64) (i : Nat) : (memberBit m).getLsbD i = true ↔ i = m.val := by
  have below := m.isLt
  simp only [memberBit, BitVec.getLsbD_twoPow, Bool.and_eq_true, decide_eq_true_eq]
  omega

/-- Settles O52: what a raise and a clear leave of each kind, with ALERT driven from the set they leave. -/
theorem noticesAreRaisedAndCleared : Obligations.NoticesAreRaisedAndCleared := by
  refine ⟨fun s n => ⟨s.raise n, rfl, rfl, ?_, fun i => ?_, fun k other => ?_, alertLevel_iff _ _⟩,
    fun s p r mask passed => ⟨s.clearKinds mask, ?_, rfl, fun k selected => ?_, fun k kept => ?_, alertLevel_iff _ _⟩⟩
  · rw [State.note_raise, if_pos rfl]
    rfl
  · rw [State.note_raise, if_pos rfl, Note.raised, BitVec.getLsbD_or, Bool.or_eq_true, getLsbD_memberBit, or_comm]
  · rw [State.note_raise, if_neg other]
  · change execClearNotices p r s = _
    simp only [execClearNotices, passed]
    rfl
  · rw [State.note_clearKinds, if_pos (show maskSelects mask k.number = true from selected)]
    rfl
  · rw [State.note_clearKinds, if_neg (by rw [maskSelects, kept]; simp)]

/-! ### Configuration commands (R99, R188, R190, R191) -/

section

variable {s : State} {p : Port} {t : ReplyTime}

theorem exec_segmentConfig_of_passed {g : SegIx} {c : ConfigChange} (passed : s.passedCommand p = some (.segmentConfig g c))
    {r : State × Result} (taken : s.takeSegmentConfig g c = r) : exec (.segmentConfig p t) s = .next (r.1.reply p t r.2) := by
  change execSegmentConfig p t s = _
  simp only [execSegmentConfig, passed, taken]
  rfl

theorem exec_portConfig_of_passed {port : Port} {limit : Byte} (passed : s.passedCommand p = some (.portConfig port limit)) :
    exec (.portConfig p t) s =
      .next ((s.setPort port { s.port port with holdLimit := limit }).reply p t (.done .ok [])) := by
  change execPortConfig p t s = _
  simp only [execPortConfig, passed]
  rfl

theorem exec_globalConfig_of_passed {mask idle : Byte} (passed : s.passedCommand p = some (.globalConfig mask idle)) :
    exec (.globalConfig p t) s =
      .next ({ s with alertMask := mask, idleLimit := idle, alertLow := alertLevel s.notices mask }.reply p t
        (.done .ok [])) := by
  change execGlobalConfig p t s = _
  simp only [execGlobalConfig, passed]
  rfl

end

/-- Settles O49: the three commands that store settings. -/
theorem configurationCommandsStoreTheirValues : Obligations.ConfigurationCommandsStoreTheirValues := by
  intro s p t
  refine ⟨fun g c passed => ⟨fun disabled => ?_, fun other => ?_⟩, fun port limit => exec_portConfig_of_passed,
    fun mask idle passed => ⟨_, alertLevel_iff s.notices mask, exec_globalConfig_of_passed passed⟩⟩
  · refine exec_segmentConfig_of_passed (r := (s.setSeg g ((s.seg g).withConfig c), .done .ok [])) passed ?_
    simp only [State.takeSegmentConfig, disabled]
    rfl
  · refine exec_segmentConfig_of_passed (r := (s, .done .segmentActive [])) passed ?_
    unfold State.takeSegmentConfig
    split
    · next disabled => exact absurd disabled other
    all_goals rfl

end Sys2Proof.Machine
end

section
/-! The read commands and the codes, bytes and levels of the tables (8.4, 9.4, 10.1, 10.5; R105, R108). -/

namespace Sys2Proof.Machine

/-! ### The items of the read payloads (R184 to R187, R203, R212) -/

theorem seconds_eq (now : Nat) (l : Lease) :
    l.seconds now = match l with
      | .none => 0
      | .running e => max 1 ((e - now + 7999999) / 8000000)
      | .paused left => (left + 7999999) / 8000000 := by
  cases l <;> simp only [Lease.seconds, unitsRoundedUp_second]

theorem Slot.toBytes_image (x : Slot) :
    x.image.toBytes = match x.record with
      | some r => r.image.toBytes
      | none => List.replicate 12 0#8 := by
  unfold Slot.image
  cases x.record <;> rfl

theorem extractLsb'_setWidth_addr (a : Addr) (start : Nat) (within : start ≤ 8) :
    (a.setWidth 16 : BitVec 16).extractLsb' start 8 = a.extractLsb' start 8 :=
  BitVec.eq_of_getLsbD_eq fun i below => by
    have bits : start + i < 16 := by omega
    simp [bits]

theorem portCode_eq (p : Port) :
    portCode p = match p with
      | .u0 => 0#8
      | .u1 => 1#8 := by
  cases p <;> rfl

section

variable {s : State} {port : Port} {q : Query}

theorem probePayload_of_none (none : (s.lookupResult port q).2 = .none) :
    s.probePayload port q = [verdictCode (s.lookupResult port q).1, 0#8, 0#8, 0#8, 0#8, 0#8, 0#8] := by
  have result : s.lookupResult port q = ((s.lookupResult port q).1, .none) := Prod.ext rfl none
  rw [State.probePayload, result]

theorem probePayload_of_segment {k : SlotIx} {r : Record} {g : SegIx} {w : Width} {base : Addr}
    (winner : (s.lookupResult port q).2 = some (k, r)) (target : r.target = .segment g w base) :
    s.probePayload port q = [verdictCode (s.lookupResult port q).1, byteOf k.val, (s.slot k).gen, byteOf g.val,
      (widthCode w).setWidth 8, (r.translate w base q.addr).extractLsb' 8 8, (r.translate w base q.addr).extractLsb' 0 8] := by
  have result : s.lookupResult port q = ((s.lookupResult port q).1, some (k, r)) := Prod.ext rfl winner
  rw [State.probePayload, result]
  simp only [target, twoBytes, extractLsb'_setWidth_addr _ 8 (by decide), extractLsb'_setWidth_addr _ 0 (by decide)]
  rfl

theorem probePayload_of_other {k : SlotIx} {r : Record} (winner : (s.lookupResult port q).2 = some (k, r))
    (other : r.target = .localPart ∨ r.target = .deny) :
    s.probePayload port q =
      [verdictCode (s.lookupResult port q).1, byteOf k.val, (s.slot k).gen, 0#8, 0#8, 0#8, 0#8] := by
  have result : s.lookupResult port q = ((s.lookupResult port q).1, some (k, r)) := Prod.ext rfl winner
  rw [State.probePayload, result]
  rcases other with target | target
  all_goals
    simp only [target]
    rfl

end

theorem idleUnits_byte (s : State) :
    byteOf s.idleUnits = match s.changeSet with
      | .opened _ (some e) => byteOf ((e - s.now + 799999) / 800000)
      | .opened _ none | .empty => 0#8 := by
  unfold State.idleUnits
  cases changeSet : s.changeSet with
  | empty => rfl
  | opened o d =>
    cases d with
    | none => rfl
    | some e =>
      simp only [unitsRoundedUp_100ms]

theorem owner_byte (o : Option Port) :
    (o.map portCode).getD 0#8 = match o with
      | some p => portCode p
      | none => 0#8 := by
  cases o <;> rfl

theorem head_byte (l : List Port) :
    (l[0]?.map portCode).getD 0#8 = match l with
      | [] => 0#8
      | a :: _ => portCode a := by
  cases l <;> rfl

theorem second_byte (l : List Port) :
    (l[1]?.map portCode).getD 0#8 = match l with
      | _ :: b :: _ => portCode b
      | [_] | [] => 0#8 := by
  match l with
  | [] | [_] | _ :: _ :: _ => rfl

theorem busFree_byte (f : BusFree) :
    byteOf (busFreePeriods f) = match f with
      | .p4 => 4#8
      | .p8 => 8#8
      | .p16 => 16#8
      | .p32 => 32#8 := by
  cases f <;> rfl

/-! ### The rows of the read commands -/

section

variable {s : State} {p : Port} {t : ReplyTime}

theorem exec_readRecord_of_passed {k : SlotIx} (passed : s.passedCommand p = some (.readRecord k)) :
    exec (.readRecord p t) s = .next (s.reply p t (.done .ok (recordPayload s.now (s.slot k)))) := by
  change execReadRecord p t s = _
  simp only [execReadRecord, passed]
  rfl

theorem exec_probe_of_passed {port : Port} {q : Query} (passed : s.passedCommand p = some (.probe port q)) :
    exec (.probe p t) s = .next (s.reply p t (.done .ok (s.probePayload port q))) := by
  change execProbe p t s = _
  simp only [execProbe, passed]
  rfl

theorem exec_readStatus_of_passed (passed : s.passedCommand p = some .readStatus) :
    exec (.readStatus p t) s = .next (s.reply p t (.statusPart s.statusItems)) := by
  change execReadStatus p t s = _
  simp only [execReadStatus, passed]
  rfl

theorem exec_readSegment_of_passed {g : SegIx} (passed : s.passedCommand p = some (.readSegment g)) :
    exec (.readSegment p t) s = .next (s.reply p t (.done .ok (segmentPayload (s.seg g)))) := by
  change execReadSegment p t s = _
  simp only [execReadSegment, passed]
  rfl

theorem exec_readNotices_of_passed (passed : s.passedCommand p = some .readNotices) :
    exec (.readNotices p t) s = .next (s.reply p t (.done .ok (noticesPayload s))) := by
  change execReadNotices p t s = _
  simp only [execReadNotices, passed]
  rfl

end

/-- Settles O48: each payload item by item. -/
theorem readCommandsReturnWhatTheBlocksHold : Obligations.ReadCommandsReturnWhatTheBlocksHold := by
  intro s p t code number
  refine ⟨fun k passed => ?_, fun port q passed => ⟨fun none => ?_, fun k r g w base winner target => ?_,
    fun k r winner other => ?_⟩, fun passed => ?_, fun g passed => ?_, fun passed => ?_⟩
  · rw [exec_readRecord_of_passed passed, recordPayload, seconds_eq, Slot.toBytes_image]
    rfl
  · rw [exec_probe_of_passed passed, probePayload_of_none none]
  · rw [exec_probe_of_passed passed, probePayload_of_segment winner target]
    cases w <;> rfl
  · rw [exec_probe_of_passed passed, probePayload_of_other winner other]
  · have bytes : s.changeSetBytes = [(match s.changeSet with
        | .empty => 0#8
        | .opened _ _ => 1#8), (match s.changeSet with
        | .empty => 0#8
        | .opened o _ => code o)] := by
      unfold State.changeSetBytes
      cases s.changeSet with
      | empty => rfl
      | opened o d => simp only [portCode_eq]; rfl
    rw [exec_readStatus_of_passed passed, State.statusItems, bytes, idleUnits_byte]
    rfl
  · rw [exec_readSegment_of_passed passed, segmentPayload, owner_byte, head_byte, second_byte, busFree_byte]
    simp only [portCode_eq]
    rfl
  · refine ⟨presenceByte s.notices, presenceByte_bit s, ?_⟩
    rw [exec_readNotices_of_passed passed, noticesPayload]
    simp only [memberByte_eq]

/-! ### Codes and sets of bytes (R208, R211, R212) -/

theorem eightBytes_get (x : BitVec 64) (i : Nat) (below : i < 8) :
    (eightBytes x)[7 - i]? = some (x.extractLsb' (8 * i) 8) := by
  interval_cases i <;> rfl

/-- Bit `n` of an eight-byte set stands in the byte of its number, the last byte holding the lowest eight (R208). -/
theorem eightBytes_bit (x : BitVec 64) (n : Nat) (below : n < 64) :
    ∃ b, (eightBytes x)[7 - n / 8]? = some b ∧ b.getLsbD (n % 8) = x.getLsbD n := by
  refine ⟨_, eightBytes_get x (n / 8) (by omega), ?_⟩
  rw [BitVec.getLsbD_extractLsb', Nat.div_add_mod]
  simp [Nat.mod_lt]

/-! ### Address bytes (R105, R108) -/

theorem toNat_append_eq_add {m n : Nat} (x : BitVec m) (y : BitVec n) :
    (x ++ y).toNat = x.toNat * 2 ^ n + y.toNat := by
  rw [BitVec.toNat_append, ← Nat.shiftLeft_add_eq_or_of_lt y.isLt, Nat.shiftLeft_eq]

theorem toNat_directionBit (d : Direction) :
    (Segment.directionBit d).toNat = match d with
      | .write => 0
      | .read => 1 := by
  cases d <;> rfl

theorem toNat_sevenBit (a : Addr) (d : Direction) :
    (a.extractLsb' 0 7 ++ Segment.directionBit d).toNat = 2 * (a.toNat % 128) + (match d with
      | .write => 0
      | .read => 1) := by
  rw [toNat_append_eq_add, toNat_directionBit, BitVec.extractLsb'_toNat]
  simp [mul_comm]

theorem toNat_prefixByte (a : Addr) (d : Direction) :
    (Segment.prefixByte a d).toNat = 0xF0 + 2 * (a.toNat / 256) + (match d with
      | .write => 0
      | .read => 1) := by
  have below := a.isLt
  rw [Segment.prefixByte, toNat_append_eq_add, toNat_append_eq_add, toNat_directionBit, BitVec.extractLsb'_toNat,
    Nat.shiftRight_eq_div_pow]
  simp
  omega

theorem firstBytes_nil (n : Nat) : Segment.firstBytes n [] = [] := by cases n <;> rfl

/-! ### Levels on the lines (R105) -/

theorem restPulls_dscl (x : Segment) :
    x.restPulls.dscl = true ↔ x.state ∈ [SegState.owned, .releasing, .closing] ∧ x.position ≠ .none := by
  simp [Segment.restPulls, or_assoc]

/-- Settles O41: the tables entry by entry, and the sums that the address bytes are. -/
theorem codesAddressBytesAndLevelsAreThoseOfTheTables : Obligations.CodesAddressBytesAndLevelsAreThoseOfTheTables := by
  refine ⟨⟨rfl, rfl, rfl, rfl, rfl, rfl, rfl, fun n below => ?_⟩, fun x => ⟨rfl, eightBytes_bit x⟩, fun a d => ⟨?_, ?_⟩,
    ⟨fun d => rfl, rfl, rfl, fun b c e n => ?_⟩, ?_⟩
  · simp [byteOf, Nat.mod_eq_of_lt below]
  · exact ⟨_, rfl, toNat_sevenBit a d⟩
  · refine ⟨_, _, _, rfl, rfl, toNat_prefixByte a .write, ?_, ?_⟩
    · simp
    · rw [toNat_prefixByte]
      dsimp only
      omega
  · simp [Segment.firstBytes, firstBytes_nil]
  · exact ⟨rfl, rfl, rfl, fun b => rfl, rfl, rfl, rfl, rfl, fun x => ⟨rfl, restPulls_dscl x⟩⟩

end Sys2Proof.Machine
end

section
/-! Record images (10.2, R14 to R16, R209): the eight checks in the numbers of the fields, the addresses that a valid record
matches and translates to, and the image that READ_RECORD returns. -/

namespace Sys2Proof.Machine

/-! ### Widths, and address fields inside them (R5, R14) -/

theorem widthOfCode_eq_some_iff (c : BitVec 4) (w : Width) : widthOfCode c = some w ↔ c.toNat = w.positions := by
  cases w <;> revert c <;> decide

/-- A code of a width, and what holds of the number that it is. -/
theorem exists_width_iff {n : Nat} {P : Nat → Prop} :
    (∃ w : Width, n = w.positions ∧ P w.positions) ↔ (n = 7 ∨ n = 10) ∧ P n := by
  constructor
  · rintro ⟨w, rfl, holds⟩
    cases w
    · exact ⟨.inl rfl, holds⟩
    · exact ⟨.inr rfl, holds⟩
  · rintro ⟨rfl | rfl, holds⟩
    · exact ⟨.w7, rfl, holds⟩
    · exact ⟨.w10, rfl, holds⟩

namespace Image

theorem fits_iff_lt (x : BitVec 16) (w : Width) : fits x w = true ↔ x.toNat < 2 ^ w.positions := by
  rw [fits_iff]
  cases w <;> simp only [Width.positions] <;> omega

theorem fits_iff_bits (x : BitVec 16) (w : Width) : fits x w = true ↔ ∀ n, x.getLsbD n = true → n < w.positions := by
  rw [fits, beq_iff_eq]
  constructor
  · intro zero n bit
    have below := BitVec.lt_of_getLsbD bit
    have outside := congrArg (BitVec.getLsbD · n) zero
    simpa [bit, below, getLsbD_widthMask] using outside
  · refine fun inside => BitVec.eq_of_getLsbD_eq fun n below => ?_
    cases bit : x.getLsbD n with
    | false => simp [bit]
    | true => simp [below, getLsbD_widthMask, inside n bit]

theorem getLsbD_freePositions (i : Image) (w : Width) (n : Nat) :
    (i.freePositions w).getLsbD n = true ↔ n < w.positions ∧ i.mask.getLsbD n = false := by
  have within : w.positions ≤ 10 := by cases w <;> decide
  simp only [freePositions, BitVec.getLsbD_and, BitVec.getLsbD_not, BitVec.getLsbD_setWidth, getLsbD_widthMask,
    Bool.and_eq_true, decide_eq_true_eq, Bool.not_eq_true']
  exact ⟨fun ⟨⟨_, free⟩, _, inside⟩ => ⟨inside, free⟩, fun ⟨inside, free⟩ => ⟨⟨by omega, free⟩, by omega, inside⟩⟩

/-! ### The reserved 7-bit addresses (R15) -/

theorem getLsbD_reservedBits (n : Nat) : reservedBits.getLsbD n = true ↔ 3 ≤ n ∧ n < 7 := by
  have table : ∀ m : Fin 16, (0x78#16).getLsbD m = true ↔ 3 ≤ m.val ∧ m.val < 7 := by decide
  by_cases below : n < 16
  · exact table ⟨n, below⟩
  · rw [BitVec.getLsbD_of_ge _ _ (not_lt.mp below)]
    constructor
    · nofun
    · omega

/-- A 7-bit address is reserved when its four high bits are all 1. -/
theorem lt_reserved_iff {a : BitVec 16} (below : a.toNat < 0x80) :
    a.toNat < 0x78 ↔ ∃ n, 3 ≤ n ∧ n < 7 ∧ a.getLsbD n = false := by
  have table : ∀ v : Fin 128, v.val < 0x78 ↔ ∃ n : Fin 7, 3 ≤ n.val ∧ v.val.testBit n.val = false := by decide
  refine (table ⟨a.toNat, below⟩).trans ⟨?_, ?_⟩
  · rintro ⟨n, high, bit⟩
    exact ⟨n, high, n.isLt, bit⟩
  · rintro ⟨n, high, inside, bit⟩
    exact ⟨⟨n, inside⟩, high, bit⟩

/-- Whether every address that keeps bits `key` at the fixed positions of `mask` stays off the reserved ones: some high
position is fixed at 0 (R15). -/
theorem avoids_reserved_iff (mask key : BitVec 16) :
    mask &&& ~~~key &&& reservedBits ≠ 0#16 ↔
      ∀ a : BitVec 16, a.toNat < 0x80 → (∀ n, n < 7 → mask.getLsbD n = true → a.getLsbD n = key.getLsbD n) →
        a.toNat < 0x78 := by
  have fixedLow : mask &&& ~~~key &&& reservedBits ≠ 0#16 ↔
      ∃ n, 3 ≤ n ∧ n < 7 ∧ mask.getLsbD n = true ∧ key.getLsbD n = false := by
    rw [← not_iff_not, not_not]
    constructor
    · rintro zero ⟨n, high, inside, fixed, low⟩
      have bit := congrArg (BitVec.getLsbD · n) zero
      simp only [BitVec.getLsbD_and, BitVec.getLsbD_not, fixed, low, (getLsbD_reservedBits n).mpr ⟨high, inside⟩,
        show n < 16 by omega, BitVec.getLsbD_zero] at bit
      exact absurd bit (by decide)
    · refine fun none => BitVec.eq_of_getLsbD_eq fun n below => ?_
      by_contra bit
      simp only [BitVec.getLsbD_and, BitVec.getLsbD_not, BitVec.getLsbD_zero, Bool.not_eq_false, Bool.and_eq_true,
        Bool.not_eq_true', getLsbD_reservedBits] at bit
      obtain ⟨⟨fixed, -, low⟩, high, inside⟩ := bit
      exact none ⟨n, high, inside, fixed, low⟩
  rw [fixedLow]
  constructor
  · rintro ⟨n, high, inside, fixed, low⟩ a below agrees
    exact (lt_reserved_iff below).mpr ⟨n, high, inside, (agrees n inside fixed).trans low⟩
  · intro avoids
    let a := reservedBits ||| (key &&& 7#16)
    have sevenBit : ∀ v : Fin 8, (reservedBits ||| BitVec.ofNat 16 v.val).toNat < 0x80 := by decide
    have below : a.toNat < 0x80 := by
      have low : key &&& 7#16 = BitVec.ofNat 16 (key.toNat % 8) := BitVec.eq_of_toNat_eq (by
        rw [BitVec.toNat_and, BitVec.toNat_ofNat, BitVec.toNat_ofNat, Nat.mod_eq_of_lt (by omega : key.toNat % 8 < 2 ^ 16)]
        exact Nat.and_two_pow_sub_one_eq_mod key.toNat 3)
      have := sevenBit ⟨key.toNat % 8, Nat.mod_lt _ (by decide)⟩
      simpa only [a, low] using this
    have reserved : ¬ a.toNat < 0x78 := by
      rw [lt_reserved_iff below]
      rintro ⟨n, high, inside, bit⟩
      simp [a, (getLsbD_reservedBits n).mpr ⟨high, inside⟩] at bit
    by_contra none
    refine reserved (avoids a below fun n inside fixed => ?_)
    have lowBits : ∀ n : Fin 7, (7#16).getLsbD n = decide (n.val < 3) := by decide
    have low := lowBits ⟨n, inside⟩
    by_cases high : 3 ≤ n
    · have key1 : key.getLsbD n = true := by
        by_contra off
        exact none ⟨n, high, inside, fixed, by simpa using off⟩
      simp [a, (getLsbD_reservedBits n).mpr ⟨high, inside⟩, key1]
    · have unreserved : reservedBits.getLsbD n = false := by
        rw [← Bool.not_eq_true, getLsbD_reservedBits]
        omega
      simp only [a, BitVec.getLsbD_or, BitVec.getLsbD_and, unreserved, low, Bool.false_or]
      simp [show n < 3 by omega]

end Image

end Sys2Proof.Machine
end

section
/-! The validity checks of a record image one by one (R14 to R16), the addresses of a valid record (R15, R32), and the bytes
that READ_RECORD returns (R184, R209). -/

namespace Sys2Proof.Machine

namespace Image

variable {i : Image}

/-! ### The checks in the numbers of the fields -/

theorem isSegment_iff (i : Image) : i.isSegment = true ↔ i.kind.toNat = 1 := by
  rw [isSegment, beq_iff_eq, ← BitVec.toNat_inj]
  rfl

theorem check1_iff (i : Image) : i.check1 = true ↔ imageCheck i 1 := by
  have widths : i.check1 = true ↔ ∃ w : Width, i.matchWidth.toNat = w.positions ∧
      (i.key.toNat < 2 ^ w.positions ∧ i.mask.toNat < 2 ^ w.positions) := by
    simp only [← widthOfCode_eq_some_iff, ← fits_iff_lt, check1]
    cases widthOfCode i.matchWidth <;> simp
  rw [widths]
  exact exists_width_iff (P := fun n => i.key.toNat < 2 ^ n ∧ i.mask.toNat < 2 ^ n)

theorem check2_iff (i : Image) : i.check2 = true ↔ imageCheck i 2 := by
  have table : ∀ ports : BitVec 3, (ports != 0#3 && !ports.getLsbD 2) = true ↔
      ports.toNat = 1 ∨ ports.toNat = 2 ∨ ports.toNat = 3 := by decide
  exact table i.ports

/-- Check 3 of a route to a segment, and of any other. -/
theorem check3_of_segment (segment : i.isSegment = true) :
    i.check3 = true ↔ i.kind ≠ 0#2 ∧ i.access ≠ 0#2 ∧
      (∃ w, widthOfCode i.targetWidth = some w ∧ fits i.base w = true) ∧ i.segment.getLsbD 3 = false := by
  simp only [check3, segment, if_true]
  cases widthOfCode i.targetWidth <;> simp [and_assoc]

theorem check3_of_other (other : i.isSegment = false) :
    i.check3 = true ↔ i.kind ≠ 0#2 ∧ i.access ≠ 0#2 ∧ i.targetWidth = 0#4 ∧ i.segment = 0#4 ∧ i.base = 0#16 := by
  simp [check3, other, and_assoc]

theorem check3_iff (i : Image) : i.check3 = true ↔ imageCheck i 3 := by
  have code : ∀ c : BitVec 2, c ≠ 0#2 ↔ c.toNat = 1 ∨ c.toNat = 2 ∨ c.toNat = 3 := by decide
  have low : ∀ g : BitVec 4, g.getLsbD 3 = false ↔ g.toNat ≤ 7 := by decide
  have zero {w : Nat} (x : BitVec w) : x = 0#w ↔ x.toNat = 0 := by rw [← BitVec.toNat_inj]; simp
  cases kind : i.isSegment with
  | true =>
    have one := (isSegment_iff i).mp kind
    simp only [check3_of_segment kind, code, low, widthOfCode_eq_some_iff, fits_iff_lt,
      exists_width_iff (P := fun n => i.base.toNat < 2 ^ n), imageCheck, one]
    simp [and_comm]
  | false =>
    have other : i.kind.toNat ≠ 1 := by rw [ne_eq, ← isSegment_iff, kind]; decide
    simp [check3_of_other kind, code, zero, imageCheck, other, and_left_comm]

theorem check4_iff (matchWidth : imageCheck i 1) (target : imageCheck i 3) : i.check4 = true ↔ imageCheck i 4 := by
  obtain ⟨w, hw, -⟩ := exists_width_iff (P := fun n => i.key.toNat < 2 ^ n ∧ i.mask.toNat < 2 ^ n) |>.mpr matchWidth
  rw [← widthOfCode_eq_some_iff] at hw
  cases kind : i.isSegment with
  | false =>
    have other : i.kind.toNat ≠ 1 := by rw [ne_eq, ← isSegment_iff, kind]; decide
    simp [check4, kind, imageCheck, other]
  | true =>
    have one := (isSegment_iff i).mp kind
    obtain ⟨-, -, segment, -⟩ := target
    obtain ⟨-, targetWidth⟩ := segment one
    obtain ⟨v, hv, -⟩ := exists_width_iff (P := fun n => i.base.toNat < 2 ^ n) |>.mpr targetWidth
    rw [← widthOfCode_eq_some_iff] at hv
    have fits : i.check4 = true ↔ ∀ n, n < w.positions ∧ i.mask.getLsbD n = false → n < v.positions := by
      simp only [check4, kind, hw, hv, fits_iff_bits, getLsbD_freePositions]
    rw [widthOfCode_eq_some_iff] at hw hv
    rw [fits, imageCheck, hw, hv]
    simp only [one, forall_const, and_imp]

theorem check5_iff (i : Image) : i.check5 = true ↔ imageCheck i 5 := by
  have seven : (!(widthOfCode i.matchWidth == some Width.w7)) = true ↔ ¬ i.matchWidth.toNat = 7 := by
    rw [Bool.not_eq_true', ← Bool.not_eq_true, beq_iff_eq, widthOfCode_eq_some_iff]
    rfl
  rw [check5, Bool.or_eq_true, seven, bne_iff_ne, avoids_reserved_iff, ← imp_iff_not_or]
  rfl

theorem check6_iff (i : Image) : i.check6 = true ↔ imageCheck i 6 := by
  have seven : (!(i.isSegment && widthOfCode i.targetWidth == some Width.w7)) = true ↔
      ¬ (i.kind.toNat = 1 ∧ i.targetWidth.toNat = 7) := by
    rw [Bool.not_eq_true', ← Bool.not_eq_true, Bool.and_eq_true, beq_iff_eq, widthOfCode_eq_some_iff, isSegment_iff]
    rfl
  rw [check6, Bool.or_eq_true, seven, bne_iff_ne, avoids_reserved_iff, ← imp_iff_not_or, and_imp]
  rfl

theorem check7_iff (target : imageCheck i 3) : i.check7 = true ↔ imageCheck i 7 := by
  have table : ∀ (counted : BitVec 1) (access : BitVec 2), (access.toNat = 1 ∨ access.toNat = 2 ∨ access.toNat = 3) →
      ((counted == 0#1 || access != 1#2) = true ↔ (counted.toNat = 1 → access.toNat = 2 ∨ access.toNat = 3)) := by decide
  obtain ⟨-, access, -⟩ := target
  exact table i.counted i.access access

theorem check8_iff (target : imageCheck i 3) : i.check8 = true ↔ imageCheck i 8 := by
  obtain ⟨kind, -⟩ := target
  have zero {w : Nat} (x : BitVec w) : x = 0#w ↔ x.toNat = 0 := by rw [← BitVec.toNat_inj]; simp
  have three : i.kind = 3#2 ↔ i.kind.toNat = 3 := by rw [← BitVec.toNat_inj]; rfl
  simp only [check8, Bool.or_eq_true, Bool.and_eq_true, beq_iff_eq, isSegment_iff, zero, three, imageCheck, and_assoc]
  rcases kind with kind | kind | kind <;> simp [kind, and_assoc]

/-! ### The first failing check (R14) -/

/-- The validity checks by their numbers. -/
def check (i : Image) : Nat → Bool
  | 1 => i.check1
  | 2 => i.check2
  | 3 => i.check3
  | 4 => i.check4
  | 5 => i.check5
  | 6 => i.check6
  | 7 => i.check7
  | 8 => i.check8
  | _ => true

/-- Where the earlier checks pass, a check is its condition on the fields. -/
theorem check_iff {n : Nat} (earlier : ∀ m, 1 ≤ m → m < n → imageCheck i m) (first : 1 ≤ n) (last : n ≤ 8) :
    i.check n = true ↔ imageCheck i n := by
  interval_cases n
  · exact check1_iff i
  · exact check2_iff i
  · exact check3_iff i
  · exact check4_iff (earlier 1 (by decide) (by decide)) (earlier 3 (by decide) (by decide))
  · exact check5_iff i
  · exact check6_iff i
  · exact check7_iff (earlier 3 (by decide) (by decide))
  · exact check8_iff (earlier 3 (by decide) (by decide))

theorem firstFailure_eq_find (i : Image) :
    i.firstFailure = ((List.range' 1 8).find? fun n => !i.check n).map byteOf := by
  unfold firstFailure
  split_ifs <;> simp_all [List.range', check, byteOf]

/-- What the first failure says of the checks. -/
theorem firstFailure_some {b : Byte} (fails : i.firstFailure = some b) :
    1 ≤ b.toNat ∧ b.toNat ≤ 8 ∧ i.check b.toNat = false ∧ ∀ n, 1 ≤ n → n < b.toNat → i.check n = true := by
  rw [firstFailure_eq_find, Option.map_eq_some_iff] at fails
  obtain ⟨n, found, rfl⟩ := fails
  obtain ⟨failing, k, below, rfl, before⟩ := List.find?_eq_some_iff_getElem.mp found
  have below : k < 8 := by simpa using below
  simp only [List.getElem_range', one_mul, Bool.not_eq_true', Bool.not_not] at *
  have number : (byteOf (1 + k)).toNat = 1 + k := by simp [byteOf]; omega
  rw [number]
  refine ⟨by omega, by omega, failing, fun n first earlier => ?_⟩
  have passes := before (n - 1) (by omega)
  rwa [Nat.add_sub_cancel' first] at passes

theorem check_of_firstFailure_none (passes : i.firstFailure = none) (n : Nat) : i.check n = true := by
  obtain ⟨c1, c2, c3, c4, c5, c6, c7, c8⟩ := firstFailure_none passes
  unfold check
  split
  exacts [c1, c2, c3, c4, c5, c6, c7, c8, rfl]

/-- An image that passes every check meets the condition of each. -/
theorem imageCheck_of_valid (passes : i.firstFailure = none) (n : Nat) (first : 1 ≤ n) (last : n ≤ 8) : imageCheck i n := by
  induction n using Nat.strong_induction_on with
  | _ n ih => exact (check_iff (fun m one below => ih m below one (by omega)) first last).mp (check_of_firstFailure_none passes n)

/-- The first failing check is the first condition that is not met. -/
theorem firstFailure_eq_some_iff (b : Byte) :
    i.firstFailure = some b ↔
      1 ≤ b.toNat ∧ b.toNat ≤ 8 ∧ ¬ imageCheck i b.toNat ∧ ∀ n, 1 ≤ n → n < b.toNat → imageCheck i n := by
  have meets {c : Byte} (fails : i.firstFailure = some c) :
      1 ≤ c.toNat ∧ c.toNat ≤ 8 ∧ ¬ imageCheck i c.toNat ∧ ∀ n, 1 ≤ n → n < c.toNat → imageCheck i n := by
    obtain ⟨first, last, failing, before⟩ := firstFailure_some fails
    have earlier : ∀ n, 1 ≤ n → n < c.toNat → imageCheck i n := by
      intro n
      induction n using Nat.strong_induction_on with
      | _ n ih =>
        intro one below
        exact (check_iff (fun m first less => ih m less first (by omega)) one (by omega)).mp (before n one below)
    refine ⟨first, last, ?_, earlier⟩
    rw [← check_iff earlier first last, failing]
    decide
  refine ⟨meets, fun ⟨first, last, failing, before⟩ => ?_⟩
  cases found : i.firstFailure with
  | none => exact absurd (imageCheck_of_valid found _ first last) failing
  | some c =>
    obtain ⟨first', -, failing', before'⟩ := meets found
    rcases lt_trichotomy b.toNat c.toNat with less | same | more
    · exact absurd (before' _ first less) failing
    · rw [BitVec.eq_of_toNat_eq same]
    · exact absurd (before _ first' more) failing'

theorem firstFailure_eq_none_iff (i : Image) : i.firstFailure = none ↔ ∀ n, 1 ≤ n → n ≤ 8 → imageCheck i n := by
  refine ⟨imageCheck_of_valid, fun meets => ?_⟩
  by_contra fails
  obtain ⟨b, found⟩ := Option.ne_none_iff_exists'.mp fails
  obtain ⟨first, last, failing, -⟩ := (firstFailure_eq_some_iff b).mp found
  exact failing (meets _ first last)

/-! ### The fields of the twelve bytes, and the record of an image -/

theorem toNat_two_bytes (a b : Byte) : (a ++ b).toNat = a.toNat * 256 + b.toNat := toNat_append_eq_add a b

theorem toNat_field (b : Byte) (start length : Nat) :
    (b.extractLsb' start length).toNat = b.toNat / 2 ^ start % 2 ^ length := by
  rw [BitVec.extractLsb'_toNat, Nat.shiftRight_eq_div_pow]

theorem exists_ofBytes (b0 b1 b2 b3 b4 b5 b6 b7 b8 b9 b10 b11 : Byte) :
    ∃ i, Image.ofBytes [b0, b1, b2, b3, b4, b5, b6, b7, b8, b9, b10, b11] = some i ∧
      i.matchWidth.toNat = b0.toNat / 16 ∧ i.targetWidth.toNat = b0.toNat % 16 ∧
      i.key.toNat = b1.toNat * 256 + b2.toNat ∧ i.mask.toNat = b3.toNat * 256 + b4.toNat ∧
      i.base.toNat = b5.toNat * 256 + b6.toNat ∧ i.segment.toNat = b7.toNat / 16 ∧ i.threshold.toNat = b7.toNat % 16 ∧
      i.limit = b8 ∧ i.kind.toNat = b9.toNat / 64 ∧ i.access.toNat = b9.toNat / 16 % 4 ∧
      i.counted.toNat = b9.toNat / 8 % 2 ∧ i.ports.toNat = b9.toNat % 8 ∧
      i.lifetime.toNat = b10.toNat * 256 + b11.toNat := by
  have l0 := b0.isLt
  have l7 := b7.isLt
  have l9 := b9.isLt
  refine ⟨_, rfl, ?_, ?_, toNat_two_bytes _ _, toNat_two_bytes _ _, toNat_two_bytes _ _, ?_, ?_, rfl, ?_, ?_, ?_, ?_,
    toNat_two_bytes _ _⟩
  all_goals
    rw [toNat_field]
    omega

/-- An address field that fits its width keeps its number in the record. -/
theorem toNat_addr {x : BitVec 16} {n : Nat} (fits : x.toNat < 2 ^ n) (width : n = 7 ∨ n = 10) :
    (x.setWidth 10).toNat = x.toNat := by
  rw [BitVec.toNat_setWidth]
  apply Nat.mod_eq_of_lt
  rcases width with rfl | rfl <;> omega

end Image

namespace Record

/-- The width that a code gives. -/
theorem width_of_code (c : BitVec 4) :
    (c.toNat = 7 → (if c = 10#4 then Width.w10 else .w7) = .w7) ∧
      (c.toNat = 10 → (if c = 10#4 then Width.w10 else .w7) = .w10) := by
  revert c
  decide

/-- The target that a valid image of a route to a segment gives. -/
theorem ofImage_segment {i : Image} (segment : i.kind.toNat = 1) (target : imageCheck i 3) :
    ∃ g w base, (ofImage i).target = .segment g w base ∧ g.val = i.segment.toNat ∧
      (i.targetWidth.toNat = 7 → w = .w7) ∧ (i.targetWidth.toNat = 10 → w = .w10) ∧ base.toNat = i.base.toNat := by
  obtain ⟨-, -, fields, -⟩ := target
  obtain ⟨number, width, base⟩ := fields segment
  have kind : i.kind = 1#2 := BitVec.eq_of_toNat_eq segment
  refine ⟨_, _, _, if_pos kind, ?_, (width_of_code _).1, (width_of_code _).2, Image.toNat_addr base width⟩
  simp [Nat.mod_eq_of_lt (show i.segment.toNat < 8 by omega)]

theorem ofImage_target {i : Image} :
    (i.kind.toNat = 2 → (ofImage i).target = .localPart) ∧ (i.kind.toNat = 3 → (ofImage i).target = .deny) := by
  constructor <;> intro number
  · have kind : i.kind = 2#2 := BitVec.eq_of_toNat_eq number
    simp [ofImage, kind]
  · have kind : i.kind = 3#2 := BitVec.eq_of_toNat_eq number
    simp [ofImage, kind]

theorem ofImage_access {i : Image} :
    (i.access.toNat = 1 → (ofImage i).access = .read) ∧ (i.access.toNat = 2 → (ofImage i).access = .write) ∧
      (i.access.toNat = 3 → (ofImage i).access = .readWrite) := by
  have table : ∀ c : BitVec 2,
      (c.toNat = 1 → (if c = 1#2 then Access.read else if c = 2#2 then .write else .readWrite) = .read) ∧
      (c.toNat = 2 → (if c = 1#2 then Access.read else if c = 2#2 then .write else .readWrite) = .write) ∧
      (c.toNat = 3 → (if c = 1#2 then Access.read else if c = 2#2 then .write else .readWrite) = .readWrite) := by decide
  exact table i.access

end Record

/-- Settles O40: the places of the fields, the conditions of the checks, and the record of a valid image. -/
theorem recordImagesAreReadAndJudged : Obligations.RecordImagesAreReadAndJudged := by
  refine ⟨Image.exists_ofBytes, fun i => ⟨Image.firstFailure_eq_none_iff i, Image.firstFailure_eq_some_iff⟩,
    fun i passes => ?_⟩
  intro r
  obtain ⟨width, key, mask⟩ := Image.imageCheck_of_valid passes 1 (by decide) (by decide)
  have target := Image.imageCheck_of_valid passes 3 (by decide) (by decide)
  have counted : (i.counted == 1#1) = true ↔ i.counted.toNat = 1 := by
    rw [beq_iff_eq, ← BitVec.toNat_inj]
    rfl
  exact ⟨(Record.width_of_code _).1, (Record.width_of_code _).2, Image.toNat_addr key width, Image.toNat_addr mask width, rfl,
    rfl, fun segment => Record.ofImage_segment segment target, Record.ofImage_target.1, Record.ofImage_target.2,
    Record.ofImage_access.1, Record.ofImage_access.2.1, Record.ofImage_access.2.2, rfl, counted, rfl, rfl,
    Record.image_ofImage passes⟩

/-! ### The addresses of a valid record (R15, R32) -/

namespace Record

variable {r : Record}

theorem toNat_widthCode (w : Width) : (widthCode w).toNat = w.positions := by cases w <;> rfl

/-- A valid record meets the conditions on its image (R14). -/
theorem imageCheck_of_valid (valid : r.valid) (n : Nat) (first : 1 ≤ n) (last : n ≤ 8) : imageCheck r.image n :=
  Image.imageCheck_of_valid valid.2 n first last

theorem getLsbD_setWidth_addr (a : Addr) {n : Nat} (below : n < 10) : (a.setWidth 16 : BitVec 16).getLsbD n = a.getLsbD n := by
  rw [BitVec.getLsbD_setWidth]
  simp only [show n < 16 by omega, decide_true, Bool.true_and]

theorem toNat_setWidth_addr (a : Addr) : (a.setWidth 16 : BitVec 16).toNat = a.toNat := by
  have below := a.isLt
  rw [BitVec.toNat_setWidth, Nat.mod_eq_of_lt (by omega)]

theorem getLsbD_translate (r : Record) (w : Width) (base a : Addr) (i : Nat) :
    (r.translate w base a).getLsbD i =
      (decide (i < w.positions) && if i < r.width.positions ∧ r.mask.getLsbD i = false then a.getLsbD i else base.getLsbD i) := by
  have within : ∀ v : Width, v.positions ≤ 10 := by intro v; cases v <;> decide
  have inside := within w
  have free : r.freeMask.getLsbD i = decide (i < r.width.positions ∧ r.mask.getLsbD i = false) := by
    have inside := within r.width
    rw [freeMask, BitVec.getLsbD_and, BitVec.getLsbD_not, getLsbD_widthMask]
    by_cases below : i < r.width.positions
    · simp [below, show i < 10 by omega]
    · simp [below]
  rw [translate, BitVec.getLsbD_and, BitVec.getLsbD_or, BitVec.getLsbD_and, BitVec.getLsbD_and, BitVec.getLsbD_not,
    getLsbD_widthMask, free]
  by_cases below : i < w.positions
  · have small : i < 10 := by omega
    split_ifs with unfixed
    · rw [decide_eq_true unfixed]
      simp [below]
    · rw [decide_eq_false unfixed, decide_eq_true small]
      simp [below]
  · simp [below]

theorem translate_outside (r : Record) {w : Width} (base a : Addr) {i : Nat} (outside : w.positions ≤ i) :
    (r.translate w base a).getLsbD i = false := by
  rw [getLsbD_translate, decide_eq_false (not_lt.mpr outside), Bool.false_and]

theorem translate_free {w : Width} (base a : Addr) {i : Nat} (inside : i < w.positions) (below : i < r.width.positions)
    (free : r.mask.getLsbD i = false) : (r.translate w base a).getLsbD i = a.getLsbD i := by
  rw [getLsbD_translate, decide_eq_true inside, Bool.true_and, if_pos ⟨below, free⟩]

theorem translate_fixed {w : Width} (base a : Addr) {i : Nat} (inside : i < w.positions)
    (fixed : r.width.positions ≤ i ∨ r.mask.getLsbD i = true) : (r.translate w base a).getLsbD i = base.getLsbD i := by
  rw [getLsbD_translate, decide_eq_true inside, Bool.true_and, if_neg]
  rintro ⟨below, free⟩
  rcases fixed with outside | set
  · exact absurd below (not_lt.mpr outside)
  · simp [free] at set

/-- A 7-bit match set holds no reserved address (R15). -/
theorem covers_unreserved (valid : r.valid) (seven : r.width = .w7) {a : Addr} (below : a.toNat < 0x80)
    (covers : r.covers a = true) : a.toNat < 0x78 := by
  have agrees := (r.covers_iff a).mp covers
  rw [AgreeAtFixed, seven] at agrees
  have avoids := imageCheck_of_valid valid 5 (by decide) (by decide) (by simp [image, seven, widthCode]) (a.setWidth 16)
  rw [toNat_setWidth_addr] at avoids
  refine avoids below fun n inside fixed => ?_
  have small : n < 10 := by omega
  simp only [image, getLsbD_setWidth_addr _ small] at fixed ⊢
  exact agrees n inside fixed

/-- Every free position of a route to a 7-bit target lies inside it (R15). -/
theorem fixed_of_narrower (valid : r.valid) {g : SegIx} {base : Addr} (target : r.target = .segment g .w7 base)
    (ten : r.width = .w10) {n : Nat} (outside : 7 ≤ n) (inside : n < 10) : r.mask.getLsbD n = true := by
  by_contra free
  have narrow := imageCheck_of_valid valid 4 (by decide) (by decide) (by simp [image, target, kindCode]) n
    (by simpa [image, ten, widthCode] using inside)
    (by simpa only [image, getLsbD_setWidth_addr _ inside, Bool.not_eq_true] using free)
  simp only [image, target, toNat_widthCode, Width.positions] at narrow
  omega

/-- No 7-bit translated address is reserved (R15). -/
theorem translate_unreserved (valid : r.valid) {g : SegIx} {base : Addr} (target : r.target = .segment g .w7 base) (a : Addr) :
    (r.translate .w7 base a).toNat < 0x78 := by
  have below : (r.translate .w7 base a).toNat < 0x80 :=
    Nat.lt_pow_two_of_testBit (n := 7) _ fun i outside => r.translate_outside (w := .w7) base a outside
  have avoids := imageCheck_of_valid valid 6 (by decide) (by decide) (by simp [image, target, kindCode])
    (by simp [image, target, widthCode]) ((r.translate .w7 base a).setWidth 16)
  rw [toNat_setWidth_addr] at avoids
  refine avoids below fun n inside fixed => ?_
  have small : n < 10 := by omega
  simp only [image, target, getLsbD_setWidth_addr _ small] at fixed ⊢
  exact translate_fixed base a inside (.inr fixed)

end Record

/-- Settles O13: the translated bits, and what checks 4 to 6 keep away from. -/
theorem addressesAreTranslatedAndNeverReserved : Obligations.AddressesAreTranslatedAndNeverReserved := by
  refine ⟨fun r w base a i => ⟨r.translate_outside base a, Record.translate_free base a, Record.translate_fixed base a⟩,
    fun r a valid => ⟨fun seven below covers => Record.covers_unreserved valid seven below covers,
    fun g w base target => ⟨fun narrow ten => ?_, fun narrow _ => ?_⟩⟩⟩
  · subst narrow
    exact ⟨Record.fixed_of_narrower valid target ten (by decide) (by decide),
      Record.fixed_of_narrower valid target ten (by decide) (by decide),
      Record.fixed_of_narrower valid target ten (by decide) (by decide)⟩
  · subst narrow
    exact Record.translate_unreserved valid target a

/-! ### What READ_RECORD returns of a staged image (R184, R209) -/

/-- Settles O60: the slot holds the record of the image, whose own image is the one presented. -/
theorem stagedImagesAreReturnedByteForByte : Obligations.StagedImagesAreReturnedByteForByte := by
  intro s p k bytes i read valid passed may free
  have stages := ((stageAndUnstageWriteTheSlot s p .atOnce k).1 i passed).2.2.2 may free valid
  refine ⟨_, stages, fun o r reads => ?_⟩
  rw [exec_readRecord_of_passed reads]
  congr 3
  simp only [State.reply, writeResponse_eq, State.setPort_slot, State.setInterp_slot, State.slot_setSlot_same, recordPayload,
    Slot.image, Record.image_ofImage valid, Image.toBytes_ofBytes read, seconds_eq, List.append_assoc]
  rfl

end Sys2Proof.Machine
end

section
/-! The fields of a frame, command by command (10.3, R178, R179, R188, R208, R210). -/

namespace Sys2Proof.Machine

/-! ### Fields that name a value (R208) -/

section

theorem actionField_of_other {a : Byte} (other : a = 0#8 ∨ 4 ≤ a.toNat) : actionField a = .error .badValue := by
  have distinct : a ≠ 1#8 ∧ a ≠ 2#8 ∧ a ≠ 3#8 := by
    refine ⟨?_, ?_, ?_⟩ <;> rintro rfl <;> revert other <;> decide
  obtain ⟨not1, not2, not3⟩ := distinct
  simp only [actionField, if_neg not1, if_neg not2, if_neg not3]

theorem portField_of_other {b : Byte} (other : 2 ≤ b.toNat) : portField b = .error .badValue := by
  have not0 : b ≠ 0#8 := by rintro rfl; revert other; decide
  have not1 : b ≠ 1#8 := by rintro rfl; revert other; decide
  simp only [portField, if_neg not0, if_neg not1]

theorem directionField_of_other {b : Byte} (other : 2 ≤ b.toNat) : directionField b = .error .badValue := by
  have not0 : b ≠ 0#8 := by rintro rfl; revert other; decide
  have not1 : b ≠ 1#8 := by rintro rfl; revert other; decide
  simp only [directionField, if_neg not0, if_neg not1]

theorem widthField_of_other {b : Byte} (not7 : b ≠ 7#8) (not10 : b ≠ 10#8) : widthField b = .error .badValue := by
  simp only [widthField, if_neg not7, if_neg not10]

end

/-! ### A field that is refused refuses its frame (R179) -/

/-- A field answers a value or BAD_VALUE. -/
def ValueField {α : Type} (x : Field α) : Prop := x = .error .badValue ∨ ∃ a, x = .ok a

theorem portField_value (b : Byte) : ValueField (portField b) := by
  unfold portField ValueField
  split_ifs <;> simp

theorem widthField_value (b : Byte) : ValueField (widthField b) := by
  unfold widthField ValueField
  split_ifs <;> simp

theorem addressField_value (w : Width) (hi lo : Byte) : ValueField (addressField w hi lo) := by
  unfold addressField ValueField
  split_ifs <;> simp

/-! ### The values of SEGMENT_CONFIG (R188) -/

section

variable {α : Type} {sel : Byte} {bit : Nat} {v : Option α}

theorem selected_of_unselected (unselected : sel.getLsbD bit = false) : selected sel bit v = .ok none := by
  rw [selected, if_neg (by simp [unselected])]

theorem selected_of_value {a : α} (chosen : sel.getLsbD bit = true) (value : v = some a) :
    selected sel bit v = .ok (some a) := by
  rw [selected, if_pos chosen, value]
  rfl

theorem selected_of_none (chosen : sel.getLsbD bit = true) (none : v = .none) :
    selected sel bit v = .error .badValue := by
  rw [selected, if_pos chosen, none]
  rfl

/-- A value byte passes where it is not selected or names a value. -/
theorem selected_ok_iff : (∃ a, selected sel bit v = .ok a) ↔ ¬ (sel.getLsbD bit = true ∧ v = none) := by
  cases chosen : sel.getLsbD bit with
  | false => simp [selected_of_unselected chosen]
  | true =>
    cases value : v with
    | none => simp [selected_of_none chosen]
    | some a => simp [selected_of_value chosen rfl]

theorem selected_value : ValueField (selected sel bit v) := by
  by_cases refused : sel.getLsbD bit = true ∧ v = none
  · exact .inl (selected_of_none refused.1 refused.2)
  · exact .inr (selected_ok_iff.mpr refused)

end

theorem rateOf_eq_none_iff (b : Byte) : rateOf b = none ↔ 3 ≤ b.toNat := by revert b; decide

theorem modeOf_eq_none_iff (b : Byte) : modeOf b = none ↔ 2 ≤ b.toNat := by revert b; decide

theorem busFreeOf_eq_none_iff (b : Byte) : busFreeOf b = none ↔ b ∉ [4#8, 8#8, 16#8, 32#8] := by revert b; decide

theorem timeoutOf_eq_none_iff (b : Byte) : timeoutOf b = none ↔ b = 0#8 := by
  unfold timeoutOf present?
  split_ifs with zero <;> simp [zero]

theorem retryLimitOf_eq_none_iff (b : Byte) : retryLimitOf b = none ↔ 8 ≤ b.toNat := by
  unfold retryLimitOf
  split_ifs with below <;> simp [below]
  omega

/-- Five selected values are read together, or the first that is out of range refuses the frame. -/
theorem configFields_cases (sel rate mode free timeout retry : Byte) :
    (∃ r m f t n, selected sel 0 (rateOf rate) = .ok r ∧ selected sel 1 (modeOf mode) = .ok m ∧
      selected sel 2 (busFreeOf free) = .ok f ∧ selected sel 3 (timeoutOf timeout) = .ok t ∧
      selected sel 4 (retryLimitOf retry) = .ok n ∧
      configFields sel rate mode free timeout retry =
        .ok { rate := r, mode := m, busFree := f, timeout := t, retryLimit := n }) ∨
    ((selected sel 0 (rateOf rate) = .error .badValue ∨ selected sel 1 (modeOf mode) = .error .badValue ∨
      selected sel 2 (busFreeOf free) = .error .badValue ∨ selected sel 3 (timeoutOf timeout) = .error .badValue ∨
      selected sel 4 (retryLimitOf retry) = .error .badValue) ∧
      configFields sel rate mode free timeout retry = .error .badValue) := by
  unfold configFields
  rcases (selected_value : ValueField (selected sel 0 (rateOf rate))) with e0 | ⟨r, e0⟩
  · exact .inr ⟨.inl e0, by rw [e0]; rfl⟩
  rcases (selected_value : ValueField (selected sel 1 (modeOf mode))) with e1 | ⟨m, e1⟩
  · exact .inr ⟨.inr (.inl e1), by rw [e0, e1]; rfl⟩
  rcases (selected_value : ValueField (selected sel 2 (busFreeOf free))) with e2 | ⟨f, e2⟩
  · exact .inr ⟨.inr (.inr (.inl e2)), by rw [e0, e1, e2]; rfl⟩
  rcases (selected_value : ValueField (selected sel 3 (timeoutOf timeout))) with e3 | ⟨t, e3⟩
  · exact .inr ⟨.inr (.inr (.inr (.inl e3))), by rw [e0, e1, e2, e3]; rfl⟩
  rcases (selected_value : ValueField (selected sel 4 (retryLimitOf retry))) with e4 | ⟨n, e4⟩
  · exact .inr ⟨.inr (.inr (.inr (.inr e4))), by rw [e0, e1, e2, e3, e4]; rfl⟩
  · exact .inl ⟨r, m, f, t, n, e0, e1, e2, e3, e4, by rw [e0, e1, e2, e3, e4]; rfl⟩

theorem selected_eq_error_iff {α : Type} {sel : Byte} {bit : Nat} {v : Option α} :
    selected sel bit v = .error .badValue ↔ sel.getLsbD bit = true ∧ v = none := by
  constructor
  · intro refused
    by_contra passes
    obtain ⟨a, ok⟩ := selected_ok_iff.mpr passes
    rw [ok] at refused
    cases refused
  · exact fun ⟨chosen, empty⟩ => selected_of_none chosen empty

/-- A value byte out of the range of its field, which the selection byte names (R188). -/
def ConfigRefused (sel rate mode free timeout retry : Byte) : Prop :=
  (sel.getLsbD 0 = true ∧ 3 ≤ rate.toNat) ∨ (sel.getLsbD 1 = true ∧ 2 ≤ mode.toNat) ∨
    (sel.getLsbD 2 = true ∧ free ∉ [4#8, 8#8, 16#8, 32#8]) ∨ (sel.getLsbD 3 = true ∧ timeout = 0#8) ∨
    (sel.getLsbD 4 = true ∧ 8 ≤ retry.toNat)

theorem configFields_of_refused {sel rate mode free timeout retry : Byte}
    (refused : ConfigRefused sel rate mode free timeout retry) :
    configFields sel rate mode free timeout retry = .error .badValue := by
  rcases configFields_cases sel rate mode free timeout retry with ⟨r, m, f, t, n, e0, e1, e2, e3, e4, -⟩ | ⟨-, error⟩
  · unfold ConfigRefused at refused
    simp only [← rateOf_eq_none_iff, ← modeOf_eq_none_iff, ← busFreeOf_eq_none_iff, ← timeoutOf_eq_none_iff,
      ← retryLimitOf_eq_none_iff, ← selected_eq_error_iff, e0, e1, e2, e3, e4, reduceCtorEq, or_self] at refused
  · exact error

theorem configFields_of_passing {sel rate mode free timeout retry : Byte}
    (passes : ¬ ConfigRefused sel rate mode free timeout retry) :
    ∃ r m f t n, selected sel 0 (rateOf rate) = .ok r ∧ selected sel 1 (modeOf mode) = .ok m ∧
      selected sel 2 (busFreeOf free) = .ok f ∧ selected sel 3 (timeoutOf timeout) = .ok t ∧
      selected sel 4 (retryLimitOf retry) = .ok n ∧
      configFields sel rate mode free timeout retry =
        .ok { rate := r, mode := m, busFree := f, timeout := t, retryLimit := n } := by
  rcases configFields_cases sel rate mode free timeout retry with read | ⟨refused, -⟩
  · exact read
  · refine absurd ?_ passes
    simpa only [ConfigRefused, selected_eq_error_iff, rateOf_eq_none_iff, modeOf_eq_none_iff, busFreeOf_eq_none_iff,
      timeoutOf_eq_none_iff, retryLimitOf_eq_none_iff] using refused

/-- What a value byte that passes leaves of its field. -/
theorem value_of_selected {α : Type} {sel : Byte} {bit : Nat} {v c : Option α} (passes : selected sel bit v = .ok c) :
    (sel.getLsbD bit = false → c = none) ∧ (sel.getLsbD bit = true → c = v) := by
  refine ⟨fun unselected => ?_, fun chosen => ?_⟩
  · rw [selected_of_unselected unselected] at passes
    exact (Except.ok.inj passes).symm
  · cases value : v with
    | none =>
      rw [selected_of_none chosen value] at passes
      cases passes
    | some a =>
      rw [selected_of_value chosen value] at passes
      exact (Except.ok.inj passes).symm

/-! ### PROBE (R179) -/

theorem probeFields_of_refused {port width hi lo dir : Byte}
    (refused : 2 ≤ port.toNat ∨ (width ≠ 7#8 ∧ width ≠ 10#8) ∨ 2 ≤ dir.toNat ∨ (width = 7#8 ∧ 0x7F < (hi ++ lo).toNat) ∨
      0x3FF < (hi ++ lo).toNat) : probeFields port width hi lo dir = .error .badValue := by
  unfold probeFields
  rcases portField_value port with e | ⟨p, e⟩
  · rw [e]; rfl
  rw [e]
  rcases widthField_value width with e' | ⟨w, e'⟩
  · rw [e']; rfl
  rw [e']
  rcases addressField_value w hi lo with e'' | ⟨a, e''⟩
  · change (do let a ← addressField w hi lo; let d ← directionField dir; return Command.probe p { width := w, addr := a, dir := d }) = _
    rw [e'']; rfl
  have portOk : ¬ 2 ≤ port.toNat := fun other => by rw [portField_of_other other] at e; cases e
  have widthOk : ¬ (width ≠ 7#8 ∧ width ≠ 10#8) := fun ⟨not7, not10⟩ => by
    rw [widthField_of_other not7 not10] at e'; cases e'
  have fits : Image.fits (hi ++ lo) w = true := by
    by_contra outside
    rw [addressField, if_neg outside] at e''
    cases e''
  have inside := (Image.fits_iff_lt _ _).mp fits
  have ten : ¬ 0x3FF < (hi ++ lo).toNat := by cases w <;> simp only [Width.positions] at inside <;> omega
  have seven : ¬ (width = 7#8 ∧ 0x7F < (hi ++ lo).toNat) := by
    rintro ⟨rfl, outside⟩
    cases e'
    simp only [Width.positions] at inside
    omega
  have direction : 2 ≤ dir.toNat := by tauto
  change (do let a ← addressField w hi lo; let d ← directionField dir; return Command.probe p { width := w, addr := a, dir := d }) = _
  rw [e'', directionField_of_other direction]
  rfl

theorem probeFields_of_read {port width hi lo dir : Byte} {p : Port} {w : Width} {a : BitVec 10} {d : Direction}
    (ports : portField port = .ok p) (widths : widthField width = .ok w) (addresses : addressField w hi lo = .ok a)
    (directions : directionField dir = .ok d) :
    probeFields port width hi lo dir = .ok (.probe p { width := w, addr := a, dir := d }) := by
  simp only [probeFields, ports, widths, addresses, directions, bind, Except.bind, pure, Except.pure]

theorem addressField_of_inside {w : Width} {hi lo : Byte} (inside : (hi ++ lo).toNat < 2 ^ w.positions) :
    addressField w hi lo = .ok ((hi ++ lo).setWidth 10) :=
  if_pos ((Image.fits_iff_lt _ _).mpr inside)

/-! ### The code table (R210) -/

theorem codeOf_of_unlisted {code : Byte}
    (unlisted : code ∉ [0x01#8, 0x02#8, 0x03#8, 0x04#8, 0x05#8, 0x06#8, 0x08#8, 0x09#8, 0x10#8, 0x11#8, 0x12#8, 0x13#8, 0x14#8,
      0x20#8, 0x21#8, 0x22#8, 0x23#8, 0x28#8, 0x30#8]) : codeOf code = none := by
  have codes : codeTable.map (fun r => r.1) = [0x01#8, 0x02#8, 0x03#8, 0x04#8, 0x05#8, 0x06#8, 0x08#8, 0x09#8, 0x10#8, 0x11#8,
    0x12#8, 0x13#8, 0x14#8, 0x20#8, 0x21#8, 0x22#8, 0x23#8, 0x28#8, 0x30#8] := rfl
  rw [codeOf, Option.map_eq_none_iff, List.find?_eq_none]
  intro row listed same
  rw [← codes] at unlisted
  exact unlisted (List.mem_map.mpr ⟨row, listed, beq_iff_eq.mp same⟩)

theorem length_of_ofBytes {bytes : List Byte} {i : Image} (read : Image.ofBytes bytes = some i) : bytes.length = 12 := by
  unfold Image.ofBytes at read
  split at read
  · rfl
  · cases read

/-- Settles O39: each row of the frame table, its fields at their places. -/
theorem frameFieldsAreReadAndJudged : Obligations.FrameFieldsAreReadAndJudged := by
  unfold Obligations.FrameFieldsAreReadAndJudged
  intro judged
  refine ⟨fun k gen image high length bytes row => ?_, fun k gen image i read => ?_, ⟨rfl, rfl, rfl, rfl, rfl⟩,
    fun a b => ⟨rfl, rfl⟩, fun g a x1 x2 x3 x4 x5 x6 high bytes row => ?_, fun g => ⟨?_, ?_, ?_, ?_, fun a other => ?_⟩,
    fun g sel rate mode free timeout retry => ?_, fun port limit => ⟨fun refused => ?_, fun nonzero u0 => ?_,
      fun nonzero u1 => ?_⟩, fun port width hi lo dir refused => ?_, fun port width dir hi lo => ?_,
    fun code payload unlisted => judgeFrame_noCode payload (codeOf_of_unlisted unlisted)⟩
  · simp only [List.mem_cons, List.not_mem_nil, or_false] at row
    rcases row with rfl | rfl | rfl | rfl | rfl | rfl | rfl
    · simp only [judged, judgeFrame_stage k image length, slotField_high high]; rfl
    · simp only [judged, judgeFrame_unstage, slotField_high high]; rfl
    · simp only [judged, judgeFrame_mark, slotField_high high]; rfl
    · simp only [judged, judgeFrame_unmark, slotField_high high]; rfl
    · simp only [judged, judgeFrame_renew, slotField_high high]; rfl
    · simp only [judged, judgeFrame_revive, slotField_high high]; rfl
    · simp only [judged, judgeFrame_readRecord, slotField_high high]; rfl
  · simp only [judged, judgeFrame_stage _ image (length_of_ofBytes read), judgeFrame_unstage, judgeFrame_mark,
      judgeFrame_unmark, judgeFrame_renew, judgeFrame_revive, judgeFrame_readRecord, slotField_byteOf, read]
    exact ⟨rfl, rfl, rfl, rfl, rfl, rfl, rfl⟩
  · simp only [List.mem_cons, List.not_mem_nil, or_false] at row
    rcases row with rfl | rfl | rfl
    · simp only [judged, judgeFrame_readSegment, segmentField_high high]; rfl
    · simp only [judged, judgeFrame_segmentConfig, segmentField_high high]; rfl
    · simp only [judged, judgeFrame_segmentAction, segmentField_high high]; rfl
  · simp only [judged, judgeFrame_readSegment, segmentField_byteOf]; rfl
  · simp only [judged, judgeFrame_segmentAction, segmentField_byteOf]; rfl
  · simp only [judged, judgeFrame_segmentAction, segmentField_byteOf]; rfl
  · simp only [judged, judgeFrame_segmentAction, segmentField_byteOf]; rfl
  · simp only [judged, judgeFrame_segmentAction, segmentField_byteOf, actionField_of_other other]; rfl
  · intro outside answer
    refine ⟨fun refused => ?_, fun passes => ?_⟩
    · simp only [answer, judged, judgeFrame_segmentConfig, segmentField_byteOf, configFields_of_refused refused]; rfl
    · obtain ⟨r, m, f, t, n, rates, modes, frees, timeouts, retries, fields⟩ := configFields_of_passing passes
      refine ⟨{ rate := r, mode := m, busFree := f, timeout := t, retryLimit := n }, ?_, (value_of_selected rates).1,
        fun chosen => ?_, (value_of_selected modes).1, fun chosen => ?_, (value_of_selected frees).1, fun chosen => ?_,
        (value_of_selected timeouts).1, fun chosen => ?_, (value_of_selected retries).1, fun chosen => ?_⟩
      · simp only [answer, judged, judgeFrame_segmentConfig, segmentField_byteOf, fields]; rfl
      · rw [(value_of_selected rates).2 chosen]
        refine ⟨?_, ?_, ?_⟩ <;> rintro rfl <;> rfl
      · rw [(value_of_selected modes).2 chosen]
        refine ⟨?_, ?_⟩ <;> rintro rfl <;> rfl
      · rw [(value_of_selected frees).2 chosen]
        refine ⟨?_, ?_, ?_, ?_⟩ <;> rintro rfl <;> rfl
      · rw [(value_of_selected timeouts).2 chosen]
        refine if_neg fun zero => passes ?_
        exact .inr (.inr (.inr (.inl ⟨chosen, zero⟩)))
      · have below : retry.toNat < 8 := by
          by_contra high
          exact passes (.inr (.inr (.inr (.inr ⟨chosen, not_lt.mp high⟩))))
        refine ⟨retry.setWidth 3, ((value_of_selected retries).2 chosen).trans (if_pos below), ?_⟩
        rw [BitVec.toNat_setWidth, Nat.mod_eq_of_lt below]
  · simp only [judged, judgeFrame_portConfig]
    rcases refused with other | rfl
    · simp only [portField_of_other other]; rfl
    · rcases portField_value port with e | ⟨p, e⟩ <;> simp only [e] <;> rfl
  · subst u0
    simp only [judged, judgeFrame_portConfig, if_neg nonzero]; rfl
  · subst u1
    simp only [judged, judgeFrame_portConfig, if_neg nonzero]; rfl
  · simp only [judged, judgeFrame_probe, probeFields_of_refused refused]
  · intro portByte widthByte directionByte largest inside
    have fits : (hi ++ lo).toNat < 2 ^ width.positions := by
      cases width <;> simp only [largest, Width.positions] at inside ⊢ <;> omega
    simp only [judged, judgeFrame_probe]
    refine probeFields_of_read ?_ ?_ (addressField_of_inside fits) ?_
    · cases port <;> rfl
    · cases width <;> rfl
    · cases dir <;> rfl

end Sys2Proof.Machine
end

section
/-! SUPPORT. What an event at a segment amounts to: the segment's functions in the terms the statements use, and the event's
effect on the whole state. -/

namespace Sys2Proof.Machine

/-! ### The clock-low timer after an event (R119) -/

theorem clocked_of_timerOk {x : Segment} (ok : timerOk x) (now : Nat) : clocked now x = x := by
  rw [← Segment.timed_eq_clocked, Segment.timed_self ok]

theorem clocked_of_not_lineLow {x : Segment} (high : ¬ lineLow x) (now : Nat) :
    clocked now x = { x with clockLow := none } := by
  rw [clocked, if_neg high]

theorem not_lineLow_of_high {x : Segment} (scl : x.dsclLow = false) (sda : x.dsdaLow = false) : ¬ lineLow x := by
  rintro ⟨-, low | ⟨-, low⟩⟩
  · exact Bool.noConfusion (scl.symm.trans low)
  · exact Bool.noConfusion (sda.symm.trans low)

theorem clocked_of_high {x : Segment} (scl : x.dsclLow = false) (sda : x.dsdaLow = false) (stopped : x.clockLow = none)
    (now : Nat) : clocked now x = x := by
  rw [clocked_of_not_lineLow (not_lineLow_of_high scl sda), ← stopped]

theorem not_lineLow_of_state {x : Segment} (off : x.state = .disabled ∨ x.state = .faulted) : ¬ lineLow x := by
  rintro ⟨watching | ⟨owned, -⟩, -⟩
  · rcases off with off | off <;> simp [off] at watching
  · rcases off with off | off <;> simp [off] at owned

theorem not_lineLow_of_held {x : Segment} (owned : x.state = .owned) (position : x.position ≠ .none)
    (stage : x.stage = .none) : ¬ lineLow x := by
  rintro ⟨watching | ⟨-, low⟩, -⟩
  · simp [owned] at watching
  · exact low.elim position fun begun => begun stage

/-! ### The functions of a segment -/

namespace Segment

theorem windDown_eq (pos : Position) : windDown pos = woundDown pos := by cases pos <;> rfl

theorem begun_iff (x : Segment) : x.begun = true ↔ drives x := by
  unfold begun drives
  cases x.stage <;> simp

theorem begun_eq_false_iff (x : Segment) : x.begun = false ↔ ¬ drives x := by
  rw [← begun_iff, Bool.not_eq_true]

theorem beginFirst_eq (x : Segment) (asks : List Primitive) : ({ x with asks := asks }).beginFirst = beginsWith x asks := by
  cases asks with
  | nil => rfl
  | cons a rest => cases a <;> rfl

theorem enterIdle_eq (x : Segment) : x.enterIdle = { seg := idleOrGranted x, sends := grantOnIdle x } := by
  unfold enterIdle idleOrGranted grantOnIdle
  cases queue : x.queue <;> simp [queue, atRest, grantTo]

theorem cancellations_eq (x : Segment) : x.cancellations = sentTo x.pendingCancel .cancelled := by
  unfold cancellations sentTo
  cases x.pendingCancel <;> rfl

theorem toOwner_eq (x : Segment) (m : PortMsg) : x.toOwner m = sentTo x.owner m := by
  unfold toOwner sentTo
  cases x.owner <;> rfl

theorem stopAtOnce_of_open {x : Segment} (isOpen : ¬ (x.asks = [] ∧ x.position = .none)) : x.stopAtOnce = { seg := x } := by
  refine if_neg fun closed => isOpen ?_
  simpa only [Bool.and_eq_true, List.isEmpty_iff, beq_iff_eq] using closed

theorem stopAtOnce_of_releasing {x : Segment} (asks : x.asks = []) (position : x.position = .none)
    (releasing : x.state = .releasing) : x.stopAtOnce = x.enterIdle := by
  simp only [stopAtOnce, asks, position, releasing, List.isEmpty_nil, BEq.rfl, Bool.and_self, if_true]

theorem stopAtOnce_of_closing {x : Segment} (asks : x.asks = []) (position : x.position = .none)
    (closing : x.state = .closing) : x.stopAtOnce = x.enterDisabled := by
  simp only [stopAtOnce, asks, position, closing, List.isEmpty_nil, BEq.rfl, Bool.and_self, if_true]

theorem loseOwner_of_drives {x : Segment} (driving : drives x) (st : SegState) :
    x.loseOwner st = { x with state := st, owner := none, asks := x.asks.take 1 } :=
  if_pos ((begun_iff x).mpr driving)

theorem loseOwner_of_still {x : Segment} (still : ¬ drives x) (st : SegState) :
    x.loseOwner st = { x with state := st, owner := none, asks := [], stage := .none } :=
  if_neg fun driving => still ((begun_iff x).mp driving)

theorem asks_of_drives {x : Segment} (ok : SegmentOk x) (driving : drives x) : x.asks ≠ [] := by
  intro empty
  have still := ok.stage.mp empty
  rcases driving with begun | ⟨waiting, -⟩
  · simp [still] at begun
  · simp [still] at waiting

/-- What a primitive in progress leaves open when the owner is lost. -/
theorem take_one_of_drives {x : Segment} (ok : SegmentOk x) (driving : drives x) : x.asks.take 1 ≠ [] := by
  simpa using asks_of_drives ok driving

theorem idleOrGranted_released (x : Segment) :
    idleOrGranted { x with state := .releasing, owner := none, asks := [], stage := .none } = idleOrGranted x := by
  unfold idleOrGranted
  cases x.queue <;> rfl

/-- The end of an ownership into RELEASING, in the three cases of R117. -/
theorem enterReleasing_of_releasedBy {x y : Segment} {sends : List (Port × PortMsg)} (ok : SegmentOk x)
    (released : releasedBy x y sends) : x.enterReleasing = { seg := y, sends := sends } := by
  obtain ⟨whileDriving, whileOpen, atNone⟩ := released
  unfold enterReleasing
  by_cases driving : drives x
  · obtain ⟨rfl, rfl⟩ := whileDriving driving
    rw [loseOwner_of_drives driving, stopAtOnce_of_open fun closed => take_one_of_drives ok driving closed.1]
  rw [loseOwner_of_still driving]
  by_cases position : x.position = .none
  · obtain ⟨rfl, rfl⟩ := atNone driving position
    rw [stopAtOnce_of_releasing (x := { x with state := .releasing, owner := none, asks := [], stage := .none })
      rfl position rfl, enterIdle_eq, idleOrGranted_released]
    rfl
  · obtain ⟨rfl, rfl⟩ := whileOpen driving position
    exact stopAtOnce_of_open fun closed => position closed.2

/-- The release of an ownership always has an outcome, so the three cases of R117 are a description. -/
theorem exists_releasedBy (x : Segment) : ∃ y sends, releasedBy x y sends := by
  by_cases driving : drives x
  · exact ⟨_, _, fun _ => ⟨rfl, rfl⟩, fun still => absurd driving still, fun still => absurd driving still⟩
  by_cases position : x.position = .none
  · exact ⟨_, _, fun d => absurd d driving, fun _ isOpen => absurd position isOpen, fun _ _ => ⟨rfl, rfl⟩⟩
  · exact ⟨_, _, fun d => absurd d driving, fun _ _ => ⟨rfl, rfl⟩, fun _ closed => absurd closed position⟩

theorem clocked_atRest_disabled (x : Segment) (now : Nat) : clocked now (x.atRest .disabled) = disabledAfter x :=
  clocked_of_not_lineLow (x := x.atRest .disabled) (not_lineLow_of_state (.inl rfl)) now

/-- A bus clear begun: its first attempt pulls DSCL low, so the timer begins anew (R121). -/
theorem enterClearing_eq (x : Segment) : { x.enterClearing with driven := [] } = clearingFrom x := rfl

end Segment

/-! ### An event in the whole state -/

theorem State.onSegment_eq (s : State) (g : SegIx) (r : SegStep) :
    s.onSegment g r = ((s.setSeg g (clocked s.now r.seg)).deliver g r.sends).raiseAll r.raises := by
  rw [State.onSegment, Segment.timed_eq_clocked]

theorem State.onSegment_quiet (s : State) (g : SegIx) (x : Segment) :
    s.onSegment g { seg := x } = s.setSeg g (clocked s.now x) := s.onSegment_eq g { seg := x }

theorem State.onSegment_sending (s : State) (g : SegIx) (x : Segment) (sends : List (Port × PortMsg)) :
    s.onSegment g { seg := x, sends := sends } = (s.setSeg g (clocked s.now x)).deliver g sends :=
  s.onSegment_eq g { seg := x, sends := sends }

theorem State.onSegment_raising (s : State) (g : SegIx) (x : Segment) (sends : List (Port × PortMsg)) (n : Notice) :
    s.onSegment g { seg := x, sends := sends, raises := [n] } =
      ((s.setSeg g (clocked s.now x)).deliver g sends).raise n :=
  s.onSegment_eq g { seg := x, sends := sends, raises := [n] }

theorem State.onSegment_unchanged {s : State} {g : SegIx} (ok : timerOk (s.seg g)) (sends : List (Port × PortMsg)) :
    s.onSegment g { seg := s.seg g, sends := sends } = s.deliver g sends := by
  rw [State.onSegment_sending, clocked_of_timerOk ok, State.setSeg_self]

/-- An event that leaves the segment as it is, and sends and raises nothing, is none at all. -/
theorem State.onSegment_self {s : State} {g : SegIx} (ok : timerOk (s.seg g)) : s.onSegment g { seg := s.seg g } = s :=
  State.onSegment_unchanged ok []

theorem State.onSegment_enterIdle (s : State) (g : SegIx) (x : Segment) :
    s.onSegment g x.enterIdle = (s.setSeg g (clocked s.now (idleOrGranted x))).deliver g (grantOnIdle x) := by
  rw [Segment.enterIdle_eq, State.onSegment_sending]

theorem State.onSegment_enterDisabled (s : State) (g : SegIx) (x : Segment) :
    s.onSegment g x.enterDisabled = (s.setSeg g (disabledAfter x)).deliver g (sentTo x.pendingCancel .cancelled) := by
  rw [Segment.enterDisabled, State.onSegment_sending, Segment.clocked_atRest_disabled, Segment.cancellations_eq]

theorem State.deliver_one (s : State) (g : SegIx) (p : Port) (m : PortMsg) :
    s.deliver g [(p, m)] = s.setPort p { s.port p with fromSegments := (s.port p).fromSegments ++ [(g, m)] } := rfl

theorem State.dropSegMsg_of_first {s : State} {p : Port} {m : SegIx × SegMsg} {rest : List (SegIx × SegMsg)}
    (first : (s.port p).toSegments = m :: rest) : s.dropSegMsg p = s.setPort p { s.port p with toSegments := rest } := by
  change s.setPort p { s.port p with toSegments := (s.port p).toSegments.tail } = _
  rw [first]
  rfl

theorem exec_segmentRequest {s : State} {p : Port} {g : SegIx} {n : Nat} {rest : List (SegIx × SegMsg)}
    (first : (s.port p).toSegments = (g, .request n) :: rest) :
    exec (.segmentRequest p) s = .next
      ((s.setPort p { s.port p with toSegments := rest }).onSegment g ((s.seg g).takeRequest p n)) := by
  change execSegmentRequest p s = _
  rw [execSegmentRequest, State.dropSegMsg_of_first first, first]

theorem exec_release {s : State} {p : Port} {g : SegIx} {rest : List (SegIx × SegMsg)}
    (first : (s.port p).toSegments = (g, .release) :: rest) :
    exec (.release p) s = .next
      ((s.setPort p { s.port p with toSegments := rest }).onSegment g ((s.seg g).takeRelease p)) := by
  change execRelease p s = _
  rw [execRelease, State.dropSegMsg_of_first first, first]

theorem exec_withdrawal {s : State} {p : Port} {g : SegIx} {rest : List (SegIx × SegMsg)}
    (first : (s.port p).toSegments = (g, .withdrawal) :: rest) :
    exec (.withdrawal p) s = .next
      ((s.setPort p { s.port p with toSegments := rest }).onSegment g ((s.seg g).takeWithdrawal p)) := by
  change execWithdrawal p s = _
  rw [execWithdrawal, State.dropSegMsg_of_first first, first]

theorem exec_ask {s : State} {p : Port} {g : SegIx} {a : Primitive} {rest : List (SegIx × SegMsg)}
    (first : (s.port p).toSegments = (g, .ask a) :: rest) :
    exec (.ask p) s = .next
      ((s.setPort p { s.port p with toSegments := rest }).onSegment g ((s.seg g).takeAsk p a)) := by
  change execAsk p s = _
  rw [execAsk, State.dropSegMsg_of_first first, first]

/-! ### Requests, withdrawals, releases and asks -/

theorem takeRequest_of_idle {x : Segment} (idle : x.state = .idle) (p : Port) (n : Nat) :
    x.takeRequest p n = ({ x with tickets := x.tickets.set p n }).grantTo p := by
  simp only [Segment.takeRequest, idle]

theorem takeRequest_of_waiting {x : Segment} (waiting : x.state ∈ [SegState.owned, .releasing, .clearing]) (p : Port)
    (n : Nat) : x.takeRequest p n = { seg := { x with queue := x.queue ++ [p], tickets := x.tickets.set p n } } := by
  simp only [List.mem_cons, List.not_mem_nil, or_false] at waiting
  unfold Segment.takeRequest
  rcases waiting with e | e | e <;> rw [e]

theorem takeRequest_of_refusing {x : Segment} (refusing : x.state ∈ [SegState.disabled, .closing, .faulted]) (p : Port)
    (n : Nat) : x.takeRequest p n = { seg := x, sends := [(p, .refusal n)] } := by
  simp only [List.mem_cons, List.not_mem_nil, or_false] at refusing
  unfold Segment.takeRequest
  rcases refusing with e | e | e <;> rw [e]

/-- Settles O30, by the three kinds of state a request can come to. -/
theorem segmentRequestsAreGrantedQueuedOrRefused : Obligations.SegmentRequestsAreGrantedQueuedOrRefused := by
  intro s p g n rest ok first x c
  rw [exec_segmentRequest first]
  refine ⟨fun idle => ?_, fun waiting => ?_, fun refusing => ?_⟩
  · rw [takeRequest_of_idle idle, Segment.grantTo, State.onSegment_sending, State.deliver_one]
    simp [State.setSeg_setPort, State.setPort_setPort, c, x]
  · rw [takeRequest_of_waiting waiting, State.onSegment_quiet, clocked_of_timerOk (by exact ok)]
    rfl
  · rw [takeRequest_of_refusing refusing]
    refine congrArg Host.Outcome.next ((State.onSegment_unchanged (s := s.setPort p c) ok _).trans ?_)
    rw [State.deliver_one]
    simp [State.setPort_setPort, c]

theorem takeRelease_of_owner {x : Segment} {p : Port} (owner : x.owner = some p) : x.takeRelease p = x.enterReleasing :=
  if_pos owner

theorem takeRelease_of_other {x : Segment} {p : Port} (other : x.owner ≠ some p) : x.takeRelease p = { seg := x } :=
  if_neg other

theorem takeWithdrawal_of_queued {x : Segment} {p : Port} (queued : p ∈ x.queue) :
    x.takeWithdrawal p = { seg := { x with queue := x.queue.filter (· ≠ p) } } := if_pos queued

theorem takeWithdrawal_of_unqueued {x : Segment} {p : Port} (unqueued : p ∉ x.queue) :
    x.takeWithdrawal p = x.takeRelease p := if_neg unqueued

theorem takeAsk_first {x : Segment} {p : Port} (owner : x.owner = some p) (empty : x.asks = []) (a : Primitive) :
    x.takeAsk p a = { seg := beginsWith x [a] } := by
  rw [Segment.takeAsk, if_pos owner, empty, ← Segment.beginFirst_eq]
  rfl

theorem takeAsk_next {x : Segment} {p : Port} (owner : x.owner = some p) (busy : x.asks ≠ []) (a : Primitive) :
    x.takeAsk p a = { seg := { x with asks := x.asks ++ [a] } } := by
  rw [Segment.takeAsk, if_pos owner, if_neg fun empty => busy (List.isEmpty_iff.mp empty)]

theorem takeAsk_of_other {x : Segment} {p : Port} (other : x.owner ≠ some p) (a : Primitive) :
    x.takeAsk p a = { seg := x } := if_neg other

/-- Settles O31, by the message and by whether its sender is the owner. -/
theorem withdrawalsReleasesAndAsksAreTaken : Obligations.WithdrawalsReleasesAndAsksAreTaken := by
  intro s p g rest segmentOk ok x d
  have releasing : ∀ y sends, releasedBy x y sends →
      d.onSegment g x.enterReleasing = (d.setSeg g (clocked s.now y)).deliver g sends := fun y sends released => by
    rw [Segment.enterReleasing_of_releasedBy segmentOk released]
    exact d.onSegment_sending g y sends
  have unchanged : d.onSegment g { seg := x } = d := State.onSegment_self (s := d) ok
  refine ⟨fun first => ?_, fun first => ?_, fun a first => ?_⟩
  · rw [exec_release first]
    refine ⟨fun owner y sends released => ?_, fun other => ?_⟩
    · rw [takeRelease_of_owner owner]
      exact congrArg _ (releasing y sends released)
    · rw [takeRelease_of_other other]
      exact congrArg _ unchanged
  · rw [exec_withdrawal first]
    refine ⟨fun queued => ?_, fun unqueued owner y sends released => ?_, fun unqueued other => ?_⟩
    · rw [takeWithdrawal_of_queued queued, State.onSegment_quiet, clocked_of_timerOk (by exact ok)]
    · rw [takeWithdrawal_of_unqueued unqueued, takeRelease_of_owner owner]
      exact congrArg _ (releasing y sends released)
    · rw [takeWithdrawal_of_unqueued unqueued, takeRelease_of_other other]
      exact congrArg _ unchanged
  · rw [exec_ask first]
    refine ⟨fun owner empty => ?_, fun owner busy => ?_, fun other => ?_⟩
    · rw [takeAsk_first owner empty, State.onSegment_quiet]
      rfl
    · rw [takeAsk_next owner busy, State.onSegment_quiet, clocked_of_timerOk (by exact ok)]
    · rw [takeAsk_of_other other]
      exact congrArg _ unchanged

end Sys2Proof.Machine
end

section
/-! The events at a segment, state by state (05): Starts, the ends of primitives, the STOP, arbitration losses, the clock-low
timer, the bus clear and the three actions. -/

namespace Sys2Proof.Machine

/-! ### START_CONDITION (R105, R108, R113) -/

theorem Segment.linesHigh_eq_true_iff (x : Segment) : x.linesHigh = true ↔ x.dsclLow = false ∧ x.dsdaLow = false := by
  simp [Segment.linesHigh]

theorem Segment.makeStart_of_none {x : Segment} (position : x.position = .none) :
    x.makeStart = { x with stage := .driving, position := .boundary, driven := [.start] } := by
  simp [Segment.makeStart, position, Segment.windDown]

theorem Segment.makeStart_of_open {x : Segment} (position : x.position ≠ .none) :
    x.makeStart =
      { x with stage := .driving, position := .boundary, driven := woundDown x.position ++ [.restart] } := by
  simp [Segment.makeStart, position, Segment.windDown_eq]

theorem Segment.tenBitRestart_of_high {x : Segment} (scl : x.dsclLow = false) (sda : x.dsdaLow = false) (sent : List Drive) :
    x.tenBitRestart sent = { x with stage := .restarted, clockLow := none, driven := sent ++ [.restart] } :=
  if_pos (x.linesHigh_eq_true_iff.mpr ⟨scl, sda⟩)

theorem Segment.tenBitRestart_of_low {x : Segment} (low : x.dsclLow = true ∨ x.dsdaLow = true) (sent : List Drive) :
    x.tenBitRestart sent = { x with stage := .toRestart, clockLow := none, driven := sent } := by
  rw [Segment.tenBitRestart, x.linesHigh_eq_false_iff.mpr low]
  rfl

theorem Segment.comeToRestart_of_read {x : Segment} {a : Addr} {rest : List Primitive}
    (asks : x.asks = .address .w10 a .read :: rest) :
    x.comeToRestart = x.tenBitRestart ((Segment.addressDrives .w10 a .read).take 2) := by
  rw [Segment.comeToRestart, asks]
  rfl

theorem exec_startCondition_of_waiting {s : State} {g : SegIx} (stage : (s.seg g).stage = .waiting)
    (high : (s.seg g).linesHigh = true) :
    exec (.startCondition g) s = .next
      ((if (s.seg g).position = .none then
        s.advanceTo ((s.seg g).freeSince + Segment.startWait (s.seg g).config) else s).onSegment g
          { seg := (s.seg g).makeStart }) := by
  change execStartCondition g s = _
  simp only [execStartCondition, stage, high]

theorem exec_startCondition_of_driving {s : State} {g : SegIx} (stage : (s.seg g).stage = .driving) :
    exec (.startCondition g) s = .next (s.onSegment g { seg := (s.seg g).comeToRestart }) := by
  change execStartCondition g s = _
  simp only [execStartCondition, stage]

theorem exec_startCondition_of_toRestart {s : State} {g : SegIx} (stage : (s.seg g).stage = .toRestart)
    (high : (s.seg g).linesHigh = true) :
    exec (.startCondition g) s = .next (s.onSegment g { seg := (s.seg g).tenBitRestart [] }) := by
  change execStartCondition g s = _
  simp only [execStartCondition, stage, high]

theorem exec_startCondition_of_low {s : State} {g : SegIx} (stage : (s.seg g).stage ∈ [Stage.waiting, .toRestart])
    (low : (s.seg g).dsclLow = true ∨ (s.seg g).dsdaLow = true) : exec (.startCondition g) s = .next s := by
  have lines := (s.seg g).linesHigh_eq_false_iff.mpr low
  simp only [List.mem_cons, List.not_mem_nil, or_false] at stage
  change execStartCondition g s = _
  rcases stage with stage | stage <;> simp only [execStartCondition, stage, lines]

/-- Settles O32, by the stage of the ADDRESS and the lines. -/
theorem waitingAddressMakesItsStart : Obligations.WaitingAddressMakesItsStart := by
  intro s g x period wait
  have waits : Segment.startWait x.config = wait := by
    simp only [Segment.startWait, Segment.periodTicks, wait, period]
    cases x.config.mode <;> cases x.config.busFree <;> rfl
  refine ⟨fun stage scl sda => ⟨fun position => ?_, fun position => ?_⟩,
    fun stage low => exec_startCondition_of_low stage low,
    fun a rest stage asks => ?_, fun stage scl sda => ?_⟩
  · rw [exec_startCondition_of_waiting stage (x.linesHigh_eq_true_iff.mpr ⟨scl, sda⟩), if_pos position,
      Segment.makeStart_of_none position, State.onSegment_quiet,
      clocked_of_not_lineLow (by exact not_lineLow_of_high scl sda)]
    exact congrArg (fun w => Host.Outcome.next (({ s with now := max s.now (x.freeSince + w) } : State).setSeg g _)) waits
  · rw [exec_startCondition_of_waiting stage (x.linesHigh_eq_true_iff.mpr ⟨scl, sda⟩), if_neg position,
      Segment.makeStart_of_open position, State.onSegment_quiet,
      clocked_of_not_lineLow (by exact not_lineLow_of_high scl sda)]
  · intro twoBytes
    rw [exec_startCondition_of_driving stage, Segment.comeToRestart_of_read asks]
    refine ⟨fun scl sda => ?_, fun low => ⟨_, rfl, ?_, fun owned => ?_⟩⟩
    · rw [Segment.tenBitRestart_of_high scl sda, State.onSegment_quiet, clocked_of_high (by exact scl) (by exact sda) rfl]
    · rw [Segment.tenBitRestart_of_low low, State.onSegment_quiet]
    · have condition : lineLow { x with stage := .toRestart, clockLow := none, driven := twoBytes } :=
        ⟨.inr ⟨owned, .inr Stage.noConfusion⟩, low.imp id fun sda => ⟨.tail _ (.head _), sda⟩⟩
      simp only [clocked, if_pos condition]
      rfl
  · rw [exec_startCondition_of_toRestart stage (x.linesHigh_eq_true_iff.mpr ⟨scl, sda⟩),
      Segment.tenBitRestart_of_high scl sda, State.onSegment_quiet, clocked_of_high (by exact scl) (by exact sda) rfl]
    rfl

/-! ### The ends of primitives (R108 to R111) -/

namespace Segment

/-- What an end drives, of the sequence `d` of its primitive: the wind-down and Restart that were still to come before it, and
not again what START_CONDITION drove already (log 18 and 32). -/
def leftToDrive (x : Segment) (d : List Drive) : List Drive :=
  match x.stage with
  | .waiting => woundDown x.position ++ [.restart] ++ d
  | .toRestart => d.drop 2
  | .restarted => d.drop 3
  | .none | .driving => d

theorem endPrimitive_of_owned {x : Segment} {o : Port} (owned : x.state = .owned) (owner : x.owner = some o)
    (pos : Position) (m : PortMsg) (d : List Drive) :
    x.endPrimitive pos m d =
      { seg := beginsWith { x with position := pos, clockLow := none, driven := d } x.asks.tail, sends := [(o, m)] } := by
  simp only [endPrimitive, owned, toOwner, owner, ← beginFirst_eq]

theorem endPrimitive_of_releasing {x : Segment} (releasing : x.state = .releasing) {pos : Position} (isOpen : pos ≠ .none)
    (m : PortMsg) (d : List Drive) :
    x.endPrimitive pos m d =
      { seg := { x with asks := [], stage := .none, position := pos, clockLow := none, driven := d } } := by
  rw [endPrimitive, releasing]
  exact stopAtOnce_of_open fun closed => isOpen closed.2

theorem endPrimitive_of_closing {x : Segment} (closing : x.state = .closing) {pos : Position} (isOpen : pos ≠ .none)
    (m : PortMsg) (d : List Drive) :
    x.endPrimitive pos m d =
      { seg := { x with asks := [], stage := .none, position := pos, clockLow := none, pendingCancel := none, driven := d },
        sends := sentTo x.pendingCancel .cancelled } := by
  have stopped := stopAtOnce_of_open (x := { x with
    asks := [], stage := .none, position := pos, clockLow := none, pendingCancel := none, driven := d })
    fun closed => isOpen closed.2
  rw [closing] at stopped
  simp only [endPrimitive, closing, stopped, cancellations_eq, List.append_nil]

/-- An end overwrites the stage, the position and what was driven, whatever they were. -/
theorem endPrimitive_of_driven {x : Segment} (live : x.state ∈ [SegState.owned, .releasing, .closing]) (stage : Stage) (position : Position) (driven : List Drive) (pos : Position)
    (m : PortMsg) (d : List Drive) :
    ({ x with stage := stage, position := position, driven := driven }).endPrimitive pos m d = x.endPrimitive pos m d := by
  simp only [List.mem_cons, List.not_mem_nil, or_false] at live
  rcases live with state | state | state
  · simp only [endPrimitive, state, toOwner]
    cases x.asks.tail with
    | nil => rfl
    | cons a rest => cases a <;> rfl
  · simp only [endPrimitive, state]
  · simp only [endPrimitive, state, cancellations]

/-- The primitive `a` in progress can end by the command `c` (R108): it drives the lines, or its Restart is still to come and
both lines are high. -/
def MayEnd (x : Segment) (c : Instr) (a : Primitive) : Prop :=
  x.stage = .driving ∧ (endsAfterRestart c a → x.dsclLow = false ∧ x.dsdaLow = false) ∨
    (x.stage = .waiting ∧ x.position ≠ .none ∧ x.dsclLow = false ∧ x.dsdaLow = false ∧ ∃ w ad dir, a = .address w ad dir) ∨
    (x.stage = .toRestart ∧ x.dsclLow = false ∧ x.dsdaLow = false ∧ endsAfterRestart c a) ∨
    (x.stage = .restarted ∧ endsAfterRestart c a)

theorem begun_of_mayEnd {x : Segment} {c : Instr} {a : Primitive} (may : MayEnd x c a) : x.begun = true := by
  rw [begun_iff]
  rcases may with ⟨stage, -⟩ | ⟨stage, position, -⟩ | ⟨stage, -⟩ | ⟨stage, -⟩
  · exact .inl (by simp [stage])
  · exact .inr ⟨stage, position⟩
  · exact .inl (by simp [stage])
  · exact .inl (by simp [stage])

/-- A primitive other than ADDRESS has no Restart to make, so it ends while it drives the lines. -/
theorem leftToDrive_of_data {x : Segment} {c : Instr} {a : Primitive} (may : MayEnd x c a)
    (data : ∀ w ad dir, a ≠ .address w ad dir) (d : List Drive) : x.leftToDrive d = d := by
  have stage : x.stage = .driving := by
    rcases may with ⟨stage, -⟩ | ⟨-, -, -, -, w, ad, dir, address⟩ | ⟨-, -, -, -, -, ad, -, address, -⟩ |
      ⟨-, -, -, ad, -, address, -⟩
    · exact stage
    · exact absurd address (data w ad dir)
    · exact absurd address (data _ ad _)
    · exact absurd address (data _ ad _)
  rw [leftToDrive, stage]

theorem two_le_of_endsAfterRestart {g : SegIx} {n : Nat} {a : Primitive} (ends : endsAfterRestart (.addressEnd g n) a) :
    2 ≤ n := by
  obtain ⟨_, _, _, same, -, two⟩ := ends
  cases same
  exact two

/-- What makes the event of an ADDRESS's end one that can happen (log 18 and 32). -/
theorem addressEnd_guard {x : Segment} {g : SegIx} {n : Nat} {w : Width} {ad : Addr} {dir : Direction}
    (may : MayEnd x (.addressEnd g n) (.address w ad dir)) :
    (x.begun && decide (acksSeen x.stage ≤ n) && (x.linesHigh || !endMakesRestart x.stage w dir n)) = true := by
  rw [begun_of_mayEnd may]
  rcases may with ⟨stage, ends⟩ | ⟨stage, -, scl, sda, -⟩ | ⟨stage, scl, sda, ends⟩ | ⟨stage, ends⟩
  · by_cases last : w = .w10 ∧ dir = .read ∧ 2 ≤ n
    · obtain ⟨rfl, rfl, two⟩ := last
      have high := x.linesHigh_eq_true_iff.mpr (ends ⟨g, n, ad, rfl, rfl, two⟩)
      simp [stage, acksSeen, high]
    · simp only [stage, acksSeen, endMakesRestart, Bool.true_and, Nat.zero_le, decide_true, Bool.or_eq_true,
        Bool.not_eq_true', Bool.and_eq_false_iff, beq_eq_false_iff_ne, decide_eq_false_iff_not]
      tauto
  · simp [stage, acksSeen, x.linesHigh_eq_true_iff.mpr ⟨scl, sda⟩]
  · simp [stage, acksSeen, x.linesHigh_eq_true_iff.mpr ⟨scl, sda⟩, two_le_of_endsAfterRestart ends]
  · simp [stage, acksSeen, endMakesRestart, two_le_of_endsAfterRestart ends]

theorem leftToDrive_eq {x : Segment} (waits : x.stage = .waiting → x.position ≠ .none) (d : List Drive) :
    (if x.stage = .waiting then x.makeStart else { x with driven := [] }).driven ++ d.drop (drivesDone x.stage) =
      x.leftToDrive d := by
  cases stage : x.stage with
  | waiting => simp [leftToDrive, stage, drivesDone, makeStart_of_open (waits stage)]
  | none | driving | toRestart | restarted => simp [leftToDrive, stage, drivesDone]

theorem addressEnd_of_mayEnd {x : Segment} {g : SegIx} {n : Nat} {w : Width} {ad : Addr} {dir : Direction}
    {rest : List Primitive} (live : x.state ∈ [SegState.owned, .releasing, .closing])
    (may : MayEnd x (.addressEnd g n) (.address w ad dir)) (asks : x.asks = .address w ad dir :: rest) {pos : Position}
    {m : PortMsg} {d : List Drive} (ends : endOf (.addressEnd g n) g (.address w ad dir) = some (pos, m, d)) :
    x.addressEnd n = x.endPrimitive pos m (x.leftToDrive d) := by
  have waits : x.stage = .waiting → x.position ≠ .none := fun waiting => by
    rcases may with ⟨stage, -⟩ | ⟨-, position, -⟩ | ⟨stage, -⟩ | ⟨stage, -⟩
    · exact absurd (waiting.symm.trans stage) (by decide)
    · exact position
    · exact absurd (waiting.symm.trans stage) (by decide)
    · exact absurd (waiting.symm.trans stage) (by decide)
  have driven : ∀ pos m d, (if x.stage = .waiting then x.makeStart else { x with driven := [] }).endPrimitive pos m d =
      x.endPrimitive pos m d := fun pos m d => by
    split
    · exact endPrimitive_of_driven live _ _ _ pos m d
    · exact endPrimitive_of_driven live x.stage x.position [] pos m d
  unfold addressEnd
  split
  · rename_i asks'
    cases asks'.symm.trans asks
    simp only [addressEnd_guard may, if_true, leftToDrive_eq waits, driven]
    simp only [endOf, if_true] at ends
    by_cases all : addressLength w dir ≤ n
    · rw [if_pos all] at ends ⊢
      cases ends
      rfl
    · rw [if_neg all] at ends ⊢
      cases ends
      rfl
  all_goals
    rename_i asks'
    exact absurd (asks'.symm.trans asks) (by simp)

theorem writeByteEnd_of_begun {x : Segment} {b : Byte} {rest : List Primitive} (asks : x.asks = .writeByte b :: rest)
    (begun : x.begun = true) (ack : Bool) :
    x.writeByteEnd ack = x.endPrimitive .boundary (.writeResult ack) [.byte b] := by
  rw [writeByteEnd, asks]
  exact if_pos begun

theorem readByteEnd_of_begun {x : Segment} {rest : List Primitive} (asks : x.asks = .readByte :: rest)
    (begun : x.begun = true) (b : Byte) : x.readByteEnd b = x.endPrimitive .ackOpen (.readResult b) [.clockIn] := by
  rw [readByteEnd, asks]
  exact if_pos begun

theorem ackBitEnd_of_begun {x : Segment} {a : Bool} {rest : List Primitive} (asks : x.asks = .ackBit a :: rest)
    (begun : x.begun = true) :
    x.ackBitEnd =
      x.endPrimitive (if a then .clientSending else .boundary) .ackBitDone [if a then .ack else .nack] := by
  rw [ackBitEnd, asks]
  exact if_pos begun

end Segment

/-- The command that ends a primitive, in the terms of `endOf`: the five rows of R108 to R111. -/
theorem exec_of_endOf {s : State} {c : Instr} {g : SegIx} {a : Primitive} {rest : List Primitive} {pos : Position} {m : PortMsg}
    {d : List Drive} (ends : endOf c g a = some (pos, m, d)) (asks : (s.seg g).asks = a :: rest)
    (may : (s.seg g).MayEnd c a) (live : (s.seg g).state ∈ [SegState.owned, .releasing, .closing]) :
    exec c s = .next (s.onSegment g ((s.seg g).endPrimitive pos m ((s.seg g).leftToDrive d))) ∧ pos ≠ .none := by
  have begun := Segment.begun_of_mayEnd may
  unfold endOf at ends
  split at ends
  · rename_i h n w ad dir
    split_ifs at ends with same all
    all_goals
      subst same
      refine ⟨congrArg (fun r => Host.Outcome.next (s.onSegment h r)) (Segment.addressEnd_of_mayEnd live may asks ?_), ?_⟩
    · simp only [endOf, if_true, if_pos all, ends]
    · cases ends
      cases dir <;> decide
    · simp only [endOf, if_true, if_neg all, ends]
    · cases ends
      decide
  · split_ifs at ends with same
    subst same
    cases ends
    rw [Segment.leftToDrive_of_data may fun _ _ _ => Primitive.noConfusion]
    exact ⟨congrArg (fun r => Host.Outcome.next (s.onSegment _ r)) (Segment.writeByteEnd_of_begun asks begun _), by decide⟩
  · split_ifs at ends with same
    subst same
    cases ends
    rw [Segment.leftToDrive_of_data may fun _ _ _ => Primitive.noConfusion]
    exact ⟨congrArg (fun r => Host.Outcome.next (s.onSegment _ r)) (Segment.readByteEnd_of_begun asks begun _), by decide⟩
  · split_ifs at ends with same
    subst same
    cases ends
    rw [Segment.leftToDrive_of_data may fun _ _ _ => Primitive.noConfusion]
    exact ⟨congrArg (fun r => Host.Outcome.next (s.onSegment _ r)) (Segment.ackBitEnd_of_begun asks begun), by decide⟩
  · split_ifs at ends with same
    subst same
    cases ends
    rw [Segment.leftToDrive_of_data may fun _ _ _ => Primitive.noConfusion]
    exact ⟨congrArg (fun r => Host.Outcome.next (s.onSegment _ r)) (Segment.ackBitEnd_of_begun asks begun), by decide⟩
  · cases ends

/-- Settles O33: the end itself in `exec_of_endOf`, and where its result goes by the state. -/
theorem primitivesEndWithTheirResults : Obligations.PrimitivesEndWithTheirResults := by
  intro s c g a rest pos m d ends asks x may sent
  have next : (s.seg g).asks.tail = rest := by rw [asks]; rfl
  refine ⟨fun o owned owner => ?_, fun releasing _ => ?_, fun closing _ => ?_⟩
  · obtain ⟨ended, -⟩ := exec_of_endOf ends asks may (by rw [owned]; exact .head _)
    rw [ended, Segment.endPrimitive_of_owned owned owner, next, State.onSegment_sending]
    rfl
  · obtain ⟨ended, isOpen⟩ := exec_of_endOf ends asks may (by rw [releasing]; exact .tail _ (.head _))
    rw [ended, Segment.endPrimitive_of_releasing releasing isOpen, State.onSegment_quiet]
    rfl
  · obtain ⟨ended, isOpen⟩ := exec_of_endOf ends asks may (by rw [closing]; exact .tail _ (.tail _ (.head _)))
    rw [ended, Segment.endPrimitive_of_closing closing isOpen, State.onSegment_sending]
    rfl

end Sys2Proof.Machine
end

section
/-! The STOP, arbitration losses, the clock-low timer, the bus clear and the three actions (05). -/

namespace Sys2Proof.Machine

/-! ### The segment's own STOP (R112) -/

theorem Segment.stopEnd_of_releasing {x : Segment} (asks : x.asks = []) (releasing : x.state = .releasing) (now : Nat) :
    x.stopEnd now =
      ({ x with freeSince := now, clockLow := none, driven := woundDown x.position ++ [Drive.stop] }).enterIdle := by
  simp only [Segment.stopEnd, asks, List.isEmpty_nil, if_true, releasing, Segment.windDown_eq]

theorem Segment.stopEnd_of_closing {x : Segment} (asks : x.asks = []) (closing : x.state = .closing) (now : Nat) :
    x.stopEnd now =
      ({ x with freeSince := now, clockLow := none, driven := woundDown x.position ++ [Drive.stop] }).enterDisabled := by
  simp only [Segment.stopEnd, asks, List.isEmpty_nil, if_true, closing, Segment.windDown_eq]

theorem exec_stopEnd (g : SegIx) (s : State) : exec (.stopEnd g) s = .next (s.onSegment g ((s.seg g).stopEnd s.now)) := by
  rfl

/-- Settles O34, by RELEASING and CLOSING. -/
theorem stopEndsReleasingAndClosing : Obligations.StopEndsReleasingAndClosing := by
  intro s g asks x
  refine ⟨fun releasing => ?_, fun closing => ?_⟩
  · rw [exec_stopEnd, Segment.stopEnd_of_releasing asks releasing, State.onSegment_enterIdle]
  · rw [exec_stopEnd, Segment.stopEnd_of_closing asks closing, State.onSegment_enterDisabled]

/-! ### Arbitration losses (R114 to R116) -/

namespace Segment

theorem arbitrationLossAddress_of_begun {x : Segment} {w : Width} {a : Addr} {d : Direction} {rest : List Primitive}
    (shared : x.config.mode = .shared) (owned : x.state = .owned) (asks : x.asks = .address w a d :: rest)
    (begun : x.begun = true) (now : Nat) :
    x.arbitrationLossAddress now =
      if x.retries < x.config.retryLimit.toNat then
        { seg := { x with
            freeSince := now, driven := [], stage := .waiting, position := .none, retries := x.retries + 1 } }
      else ({ x with freeSince := now, driven := [] }).loseBus := by
  simp only [arbitrationLossAddress, shared, owned, asks, begun, if_true]

theorem arbitrationLossAddress_of_sole {x : Segment} (sole : x.config.mode = .sole) (now : Nat) :
    x.arbitrationLossAddress now = { seg := x } := by
  simp only [arbitrationLossAddress, sole]

theorem arbitrationLoss_of_sole {x : Segment} (sole : x.config.mode = .sole) (now : Nat) :
    x.arbitrationLoss now = { seg := x } := by
  simp only [arbitrationLoss, sole]

theorem arbitrationLoss_of_data {x : Segment} {a : Primitive} {rest : List Primitive} (shared : x.config.mode = .shared)
    (owned : x.state = .owned) (asks : x.asks = a :: rest) (data : ∀ w ad d, a ≠ .address w ad d) (begun : x.begun = true)
    (now : Nat) : x.arbitrationLoss now = ({ x with freeSince := now, driven := [] }).loseBus := by
  cases a with
  | address w ad d => exact absurd rfl (data w ad d)
  | writeByte _ => simp only [arbitrationLoss, shared, owned, asks, begun, if_true]
  | readByte => simp only [arbitrationLoss, shared, owned, asks, begun, if_true]
  | ackBit _ => simp only [arbitrationLoss, shared, owned, asks, begun, if_true]

theorem arbitrationLoss_of_releasing {x : Segment} (shared : x.config.mode = .shared) (releasing : x.state = .releasing)
    (now : Nat) : x.arbitrationLoss now = ({ x with freeSince := now, driven := [] }).enterIdle := by
  simp only [arbitrationLoss, shared, releasing]

theorem arbitrationLoss_of_closing {x : Segment} (shared : x.config.mode = .shared) (closing : x.state = .closing)
    (now : Nat) : x.arbitrationLoss now = ({ x with freeSince := now, driven := [] }).enterDisabled := by
  simp only [arbitrationLoss, shared, closing]

theorem loseBus_of_owner {x : Segment} {o : Port} (owner : x.owner = some o) :
    x.loseBus = { seg := idleOrGranted x, sends := (o, .lost) :: grantOnIdle x } := by
  rw [loseBus, enterIdle_eq, toOwner_eq, owner]
  rfl

end Segment

/-- Settles O35, by the primitive or the state that loses the bus. -/
theorem arbitrationLossesAreTaken : Obligations.ArbitrationLossesAreTaken := by
  intro s g ok x idle
  have address : exec (.arbitrationLossAddress g) s =
      .next (s.onSegment g ((s.seg g).arbitrationLossAddress s.now)) := rfl
  have loss : exec (.arbitrationLoss g) s = .next (s.onSegment g ((s.seg g).arbitrationLoss s.now)) := rfl
  have lost : ∀ o, x.owner = some o →
      s.onSegment g x.loseBus = (s.setSeg g idle).deliver g ((o, .lost) :: grantOnIdle x) := fun o owner => by
    rw [Segment.loseBus_of_owner owner, State.onSegment_sending]
  refine ⟨fun shared => ⟨fun o w a d rest owned owner asks driving => ?_, fun o a rest owned owner asks data driving => ?_,
    fun releasing => ?_, fun closing => ?_⟩, fun sole => ⟨?_, ?_⟩⟩
  · rw [address, Segment.arbitrationLossAddress_of_begun shared owned asks ((Segment.begun_iff _).mpr driving)]
    refine ⟨fun below => ?_, fun limit => ?_⟩
    · rw [if_pos below, State.onSegment_quiet]
    · rw [if_neg (not_lt.mpr limit)]
      exact congrArg _ (lost o owner)
  · rw [loss, Segment.arbitrationLoss_of_data shared owned asks data ((Segment.begun_iff _).mpr driving)]
    exact congrArg _ (lost o owner)
  · rw [loss, Segment.arbitrationLoss_of_releasing shared releasing, State.onSegment_enterIdle]
  · rw [loss, Segment.arbitrationLoss_of_closing shared closing, State.onSegment_enterDisabled]
  · rw [address, Segment.arbitrationLossAddress_of_sole sole, State.onSegment_self ok]
  · rw [loss, Segment.arbitrationLoss_of_sole sole, State.onSegment_self ok]

/-! ### The clock-low timer and the bus clear (R119 to R122) -/

namespace Segment

theorem failAttempt_of_left {x : Segment} (left : x.attempts < 3) (g : SegIx) :
    x.failAttempt g = { seg := { x with attempts := x.attempts + 1, clockLow := none, driven := [] } } := if_pos left

theorem failAttempt_of_last {x : Segment} (last : 3 ≤ x.attempts) (g : SegIx) :
    x.failAttempt g =
      { seg := { x.atRest .faulted with queue := [], driven := [] }, sends := refusalsOf x, raises := [.segmentFault g] } :=
  if_neg (not_lt.mpr last)

theorem timerCanRun_of_owned {x : Segment} (owned : x.state = .owned) (runs : x.position = .none ∨ x.stage ≠ .none) :
    x.timerCanRun = true := by
  simpa [timerCanRun, owned] using runs

theorem clockLowExpiry_of_owned {x : Segment} {o : Port} (owned : x.state = .owned) (owner : x.owner = some o)
    (runs : x.position = .none ∨ x.stage ≠ .none) (g : SegIx) :
    x.clockLowExpiry g = { seg := clearingFrom x, sends := [(o, .fault)] } := by
  rw [clockLowExpiry, if_pos (timerCanRun_of_owned owned runs), owned]
  simp only [toOwner, owner, enterClearing_eq]

theorem clockLowExpiry_of_idle {x : Segment} (state : x.state = .idle ∨ x.state = .releasing) (g : SegIx) :
    x.clockLowExpiry g = { seg := clearingFrom x } := by
  rcases state with state | state <;>
    rw [clockLowExpiry, if_pos (by rw [timerCanRun, state]), state] <;> rfl

theorem clockLowExpiry_of_clearing {x : Segment} (clearing : x.state = .clearing) (g : SegIx) :
    x.clockLowExpiry g = x.failAttempt g := by
  rw [clockLowExpiry, if_pos (by rw [timerCanRun, clearing]), clearing]

theorem clockLowExpiry_of_closing {x : Segment} (closing : x.state = .closing) (g : SegIx) :
    x.clockLowExpiry g = ({ x with driven := [] }).enterDisabled := by
  simp only [clockLowExpiry, timerCanRun, closing, if_true]

theorem clearCheck_of_high {x : Segment} (clearing : x.state = .clearing) (g : SegIx) (now : Nat) :
    x.clearCheck g now true true =
      { seg := idleOrGranted { x with
          dsclLow := false, dsdaLow := false, driven := [.clearPulses, .stop], freeSince := now },
        sends := grantOnIdle x, raises := [.segmentCleared g] } := by
  rw [clearCheck, clearing]
  simp only [Bool.and_self, if_true, enterIdle_eq]
  rfl

theorem clearCheck_of_left {x : Segment} {scl sda : Bool} (clearing : x.state = .clearing)
    (low : scl = false ∨ sda = false) (left : x.attempts < 3) (g : SegIx) (now : Nat) :
    x.clearCheck g now scl sda =
      { seg := { x with
          dsclLow := !scl, dsdaLow := !sda, attempts := x.attempts + 1, clockLow := none,
          driven := [.clearPulses, .stop] } } := by
  have both : (scl && sda) = false := by rcases low with rfl | rfl <;> simp
  simp only [clearCheck, clearing, both, Bool.false_eq_true, if_false, failAttempt, left, if_true]

theorem clearCheck_of_last {x : Segment} {scl sda : Bool} (clearing : x.state = .clearing)
    (low : scl = false ∨ sda = false) (last : 3 ≤ x.attempts) (g : SegIx) (now : Nat) :
    x.clearCheck g now scl sda =
      { seg := { x.atRest .faulted with
          dsclLow := !scl, dsdaLow := !sda, queue := [], driven := [.clearPulses, .stop] },
        sends := refusalsOf x, raises := [.segmentFault g] } := by
  have both : (scl && sda) = false := by rcases low with rfl | rfl <;> simp
  simp only [clearCheck, clearing, both, Bool.false_eq_true, if_false, failAttempt, not_lt.mpr last]
  rfl

end Segment

theorem exec_clockLowExpiry {s : State} {g : SegIx} {t : Nat} (runs : (s.seg g).clockLow = some t) :
    exec (.clockLowExpiry g) s = .next
      (({ s with now := max s.now (t + (s.seg g).config.timeout.toNat * 8000) } : State).onSegment g
        ((s.seg g).clockLowExpiry g)) := by
  change execClockLowExpiry g s = _
  rw [execClockLowExpiry, runs]
  rfl

theorem exec_clockLowExpiry_of_stopped {s : State} {g : SegIx} (stopped : (s.seg g).clockLow = none) :
    exec (.clockLowExpiry g) s = .next s := by
  change execClockLowExpiry g s = _
  rw [execClockLowExpiry, stopped]

theorem stopped_of_not_lineLow {x : Segment} (ok : timerOk x) (high : ¬ lineLow x) : x.clockLow = none := by
  rw [← Option.not_isSome_iff_eq_none]
  exact fun runs => high ((Segment.lineHeldLow_iff x).mp (ok.mp runs))

/-- Settles O36, by the state in which the timer expires. -/
theorem clockLowExpiryActsByState : Obligations.ClockLowExpiryActsByState := by
  intro s g x
  refine ⟨fun t runs => ?_, fun stopped => exec_clockLowExpiry_of_stopped ?_⟩
  · intro u cleared
    rw [exec_clockLowExpiry runs]
    refine ⟨fun o owned owner watching => ?_, fun state => ?_, fun clearing left => ?_, fun clearing last => ?_,
      fun closing => ?_⟩
    · rw [Segment.clockLowExpiry_of_owned (x := s.seg g) owned owner watching, State.onSegment_sending]
      rfl
    · rw [Segment.clockLowExpiry_of_idle (x := s.seg g) state, State.onSegment_quiet]
      rfl
    · rw [Segment.clockLowExpiry_of_clearing (x := s.seg g) clearing, Segment.failAttempt_of_left (x := s.seg g) left,
        State.onSegment_quiet]
    · rw [Segment.clockLowExpiry_of_clearing (x := s.seg g) clearing, Segment.failAttempt_of_last (x := s.seg g) last,
        State.onSegment_raising, clocked_of_not_lineLow (by exact not_lineLow_of_state (.inr rfl))]
      rfl
    · rw [Segment.clockLowExpiry_of_closing (x := s.seg g) closing, State.onSegment_enterDisabled]
  · rcases stopped with stopped | ⟨ok, off | off | ⟨owned, position, stage⟩⟩
    · exact stopped
    · exact stopped_of_not_lineLow ok (not_lineLow_of_state (.inl off))
    · exact stopped_of_not_lineLow ok (not_lineLow_of_state (.inr off))
    · exact stopped_of_not_lineLow ok (not_lineLow_of_held owned position stage)

/-- Settles O37, by the two lines and the attempts left. -/
theorem clearCheckEndsOrRepeatsTheBusClear : Obligations.ClearCheckEndsOrRepeatsTheBusClear := by
  intro s g scl sda clearing x
  have check : exec (.clearCheck g scl sda) s = .next (s.onSegment g ((s.seg g).clearCheck g s.now scl sda)) := rfl
  refine ⟨fun sclHigh sdaHigh => ?_, fun low left => ?_, fun low last => ?_⟩
  · subst sclHigh sdaHigh
    rw [check, Segment.clearCheck_of_high clearing, State.onSegment_raising]
    rfl
  · rw [check, Segment.clearCheck_of_left clearing low left, State.onSegment_quiet]
  · rw [check, Segment.clearCheck_of_last clearing low last, State.onSegment_raising,
      clocked_of_not_lineLow (by exact not_lineLow_of_state (.inr rfl))]
    rfl

/-! ### ENABLE, RECOVER and DISABLE (R118, R124, R125) -/

namespace Segment

theorem takeEnable_of_off {x : Segment} (off : x.state = .disabled ∨ x.state = .faulted) :
    x.takeEnable = { seg := clearingFrom x } := by
  rcases off with state | state <;> rw [takeEnable, state] <;> rfl

theorem takeEnable_of_on {x : Segment} (notDisabled : x.state ≠ .disabled) (notFaulted : x.state ≠ .faulted) :
    x.takeEnable = { seg := x } := by
  unfold takeEnable
  cases state : x.state with
  | disabled => exact absurd state notDisabled
  | faulted => exact absurd state notFaulted
  | clearing | idle | owned | releasing | closing => rfl

theorem takeRecover_of_faulted {x : Segment} (faulted : x.state = .faulted) : x.takeRecover = { seg := clearingFrom x } := by
  rw [takeRecover, faulted]
  rfl

theorem takeRecover_of_other {x : Segment} (other : x.state ≠ .faulted) : x.takeRecover = { seg := x } := by
  unfold takeRecover
  cases state : x.state with
  | faulted => exact absurd state other
  | disabled | clearing | idle | owned | releasing | closing => rfl

theorem takeDisable_of_driving {x : Segment} (owned : x.state = .owned) (driving : drives x) :
    x.takeDisable =
      { seg := { x with
          state := .closing, owner := none, asks := x.asks.take 1, queue := [], pendingCancel := x.owner },
        sends := refusalsOf x } := by
  rw [takeDisable, owned]
  simp only [closeOwned, if_pos ((begun_iff x).mpr driving), loseOwner_of_drives driving]
  rfl

theorem takeDisable_of_open {x : Segment} (owned : x.state = .owned) (still : ¬ drives x) (isOpen : x.position ≠ .none) :
    x.takeDisable =
      { seg := { x with state := .closing, owner := none, asks := [], stage := .none, queue := [] },
        sends := sentTo x.owner .cancelled ++ refusalsOf x } := by
  have stopped := stopAtOnce_of_open (x := { x with
    state := .closing, owner := none, asks := [], stage := .none, queue := [] }) fun closed => isOpen closed.2
  rw [takeDisable, owned]
  simp only [closeOwned, (begun_eq_false_iff x).mpr still, Bool.false_eq_true, if_false, loseOwner_of_still still, stopped,
    toOwner_eq, List.append_nil]
  rfl

theorem takeDisable_of_closed {x : Segment} (ok : SegmentOk x) (owned : x.state = .owned) (still : ¬ drives x)
    (closed : x.position = .none) :
    x.takeDisable =
      { seg := { x.atRest .disabled with queue := [] }, sends := sentTo x.owner .cancelled ++ refusalsOf x } := by
  have noCancel : x.pendingCancel = none := by
    rw [← Option.not_isSome_iff_eq_none]
    exact fun pending => absurd ((ok.pending pending).1.symm.trans owned) (by decide)
  have stopped := stopAtOnce_of_closing (x := { x with
    state := .closing, owner := none, asks := [], stage := .none, queue := [] }) rfl closed rfl
  rw [takeDisable, owned]
  simp only [closeOwned, (begun_eq_false_iff x).mpr still, Bool.false_eq_true, if_false, loseOwner_of_still still, stopped,
    toOwner_eq, enterDisabled, cancellations_eq]
  simp only [noCancel, sentTo, List.append_nil]
  rfl

theorem takeDisable_of_idle {x : Segment} (ok : SegmentOk x) (idle : x.state = .idle) :
    x.takeDisable = { seg := x.atRest .disabled } := by
  have empty := ok.queue (.inr (.inl idle))
  rw [takeDisable, idle]
  simp only [refusals, atRest, empty, List.map_nil]

theorem takeDisable_of_releasing {x : Segment} (releasing : x.state = .releasing) :
    x.takeDisable = { seg := { x with state := .closing, queue := [] }, sends := refusalsOf x } := by
  simp only [takeDisable, releasing]
  rfl

theorem takeDisable_of_clearing {x : Segment} (clearing : x.state = .clearing) :
    x.takeDisable = { seg := { x.atRest .disabled with queue := [], driven := [] }, sends := refusalsOf x } := by
  simp only [takeDisable, clearing]
  rfl

theorem takeDisable_of_faulted {x : Segment} (faulted : x.state = .faulted) :
    x.takeDisable = { seg := x.atRest .disabled } := by
  simp only [takeDisable, faulted]

theorem takeDisable_of_off {x : Segment} (off : x.state = .closing ∨ x.state = .disabled) :
    x.takeDisable = { seg := x } := by
  rcases off with state | state <;> rw [takeDisable, state]

end Segment

theorem clocked_of_closing {x : Segment} (ok : timerOk x) (releasing : x.state = .releasing) (now : Nat) :
    clocked now { x with state := .closing, queue := [] } = { x with state := .closing, queue := [] } := by
  have same : lineLow x ↔ lineLow { x with state := .closing, queue := [] } := by simp [lineLow, releasing]
  have closing : timerOk { x with state := .closing, queue := [] } :=
    ok.trans ((Segment.lineHeldLow_iff x).trans (same.trans (Segment.lineHeldLow_iff _).symm))
  exact clocked_of_timerOk closing now

theorem exec_enable {s : State} {p : Port} {g : SegIx} (t : ReplyTime)
    (passed : s.passedCommand p = some (.segmentAction g .enable)) :
    exec (.enable p t) s = .next ((s.onSegment g (s.seg g).takeEnable).reply p t (.done .ok [])) := by
  change execEnable p t s = _
  rw [execEnable, passed]
  rfl

theorem exec_recover {s : State} {p : Port} {g : SegIx} (t : ReplyTime)
    (passed : s.passedCommand p = some (.segmentAction g .recover)) :
    exec (.recover p t) s = .next ((s.onSegment g (s.seg g).takeRecover).reply p t (.done .ok [])) := by
  change execRecover p t s = _
  rw [execRecover, passed]
  rfl

theorem exec_disable {s : State} {p : Port} {g : SegIx} (t : ReplyTime)
    (passed : s.passedCommand p = some (.segmentAction g .disable)) :
    exec (.disable p t) s = .next ((s.onSegment g (s.seg g).takeDisable).reply p t (.done .ok [])) := by
  change execDisable p t s = _
  rw [execDisable, passed]
  rfl

/-- Settles O50, by the action and the state it comes to. -/
theorem segmentActionsActByState : Obligations.SegmentActionsActByState := by
  intro s p t g segmentOk ok x done
  refine ⟨fun passed => ?_, fun passed => ?_, fun passed => ?_⟩
  · rw [exec_enable t passed]
    refine ⟨fun off => ?_, fun notDisabled notFaulted => ?_⟩
    · rw [Segment.takeEnable_of_off off, State.onSegment_quiet]
    · rw [Segment.takeEnable_of_on notDisabled notFaulted, State.onSegment_self ok]
  · rw [exec_recover t passed]
    refine ⟨fun faulted => ?_, fun other => ?_⟩
    · rw [Segment.takeRecover_of_faulted faulted, State.onSegment_quiet]
    · rw [Segment.takeRecover_of_other other, State.onSegment_self ok]
  · rw [exec_disable t passed]
    refine ⟨fun owned driving => ?_, fun owned still isOpen => ?_, fun owned still closed => ?_, fun idle => ?_,
      fun releasing => ?_, fun clearing => ?_, fun faulted => ?_, fun off => ?_⟩
    · rw [Segment.takeDisable_of_driving owned driving, State.onSegment_sending]
    · rw [Segment.takeDisable_of_open owned still isOpen, State.onSegment_sending]
    · rw [Segment.takeDisable_of_closed segmentOk owned still closed, State.onSegment_sending,
        clocked_of_not_lineLow (by exact not_lineLow_of_state (.inl rfl))]
      rfl
    · rw [Segment.takeDisable_of_idle segmentOk idle, State.onSegment_quiet, Segment.clocked_atRest_disabled]
    · rw [Segment.takeDisable_of_releasing releasing, State.onSegment_sending, clocked_of_closing ok releasing]
    · rw [Segment.takeDisable_of_clearing clearing, State.onSegment_sending,
        clocked_of_not_lineLow (by exact not_lineLow_of_state (.inl rfl))]
      rfl
    · rw [Segment.takeDisable_of_faulted faulted, State.onSegment_quiet, Segment.clocked_atRest_disabled]
    · rw [Segment.takeDisable_of_off off, State.onSegment_self ok]

end Sys2Proof.Machine
end

section
/-! RESTART: its five steps, and what each leaves (R192 to R196). -/

namespace Sys2Proof.Machine

/-! ### Step 1: the other port's context (R72) -/

namespace PortCtl

theorem cancelContext_eq (q : PortCtl) :
    q.cancelContext = { q.ended .absorb with
      toSegments := q.toSegments ++ withdrawalSent q.link, hold := none, held := none, frame := [], overflow := false,
      awaiting := false, stale := if q.awaiting then q.stale + 1 else q.stale,
      lastAnswer := if q.hold = none then q.lastAnswer
        else some (if q.phase = Phase.read then Answer.byte 0xFF#8 else Answer.nack) } := by
  unfold cancelContext
  rw [endHoldOwnAnswer_eq, ownAnswer_eq]
  cases link : q.link <;>
    simp [link, giveUpBinding_eq, stopAwaiting_eq, toPhase, dropFetched, ended, withdrawalSent, sendSegment]

theorem takeCancellation_of_outside {q : PortCtl} (outside : q.phase = .idle ∨ q.phase = .unaddressed) :
    q.takeCancellation = q := by
  rcases outside with phase | phase <;> rw [takeCancellation, phase]

theorem takeCancellation_of_inside {q : PortCtl} (notIdle : q.phase ≠ .idle) (addressed : q.phase ≠ .unaddressed) :
    q.takeCancellation = q.cancelContext := by
  unfold takeCancellation
  cases phase : q.phase with
  | idle => exact absurd phase notIdle
  | unaddressed => exact absurd phase addressed
  | address | tenLow | waitGrant | proxy | write | read | ending | command | response | absorb => rfl

end PortCtl

/-! ### Step 2: the segments (R127) -/

namespace Segment

theorem segmentOk_emptied {x : Segment} (ok : SegmentOk x) : SegmentOk { x with queue := [] } :=
  { ok with queue := fun _ => rfl }

theorem takeRestart_of_owned {x y : Segment} {more : List (Port × PortMsg)} (ok : SegmentOk x) (owned : x.state = .owned)
    (released : releasedBy { x with queue := [] } y more) :
    x.takeRestart = { seg := y, sends := sentTo x.owner .cancelled ++ refusalsOf x ++ more } := by
  have event := enterReleasing_of_releasedBy (segmentOk_emptied ok) released
  rw [owned] at event
  simp only [takeRestart, owned, event, toOwner_eq]
  rfl

theorem takeRestart_of_watching {x : Segment} (watching : x.state ∈ [SegState.idle, .releasing, .clearing]) :
    x.takeRestart = { seg := { x with queue := [] }, sends := refusalsOf x } := by
  simp only [List.mem_cons, List.not_mem_nil, or_false] at watching
  rcases watching with state | state | state <;> simp only [takeRestart, state] <;> rfl

theorem takeRestart_of_off {x : Segment} (off : x.state ∈ [SegState.closing, .disabled, .faulted]) :
    x.takeRestart = { seg := x } := by
  simp only [List.mem_cons, List.not_mem_nil, or_false] at off
  rcases off with state | state | state <;> rw [takeRestart, state]

theorem takeRestart_raises {x : Segment} (ok : SegmentOk x) : x.takeRestart.raises = [] := by
  cases state : x.state with
  | owned =>
    obtain ⟨y, more, released⟩ := exists_releasedBy { x with queue := [] }
    rw [takeRestart_of_owned ok state released]
  | idle | releasing | clearing => rw [takeRestart_of_watching (by simp [state])]
  | closing | disabled | faulted => rw [takeRestart_of_off (by simp [state])]

end Segment

/-- The messages among `sends` for the port `r`, as it sees them come from segment `g`. -/
def comingTo (r : Port) (g : SegIx) (sends : List (Port × PortMsg)) : List (SegIx × PortMsg) :=
  (sends.filter fun m => m.1 = r).map fun m => (g, m.2)

theorem State.port_deliver (s : State) (g : SegIx) (sends : List (Port × PortMsg)) (r : Port) :
    (s.deliver g sends).port r =
      { s.port r with fromSegments := (s.port r).fromSegments ++ comingTo r g sends } := by
  induction sends generalizing s with
  | nil => simp [State.deliver, comingTo]
  | cons m rest ih =>
    have first : s.deliver g (m :: rest) =
      (s.onPort m.1 fun q => { q with fromSegments := q.fromSegments ++ [(g, m.2)] }).deliver g rest := rfl
    rw [first, ih, State.port_onPort]
    by_cases same : r = m.1
    · subst same
      simp [comingTo]
    · simp [comingTo, same, Ne.symm same]

/-- What RESTART's second step has done when it has come past the segments in `l`. -/
structure RestartedPast (s t : State) (l : List SegIx) : Prop where
  rest : t = { s with segments := t.segments, ports := t.ports }
  taken : ∀ g ∈ l, t.seg g = clocked s.now (s.seg g).takeRestart.seg
  untaken : ∀ g, g ∉ l → t.seg g = s.seg g
  ports : ∀ r, t.port r = { s.port r with
    fromSegments := (s.port r).fromSegments ++ l.flatMap fun g => comingTo r g (s.seg g).takeRestart.sends }

theorem restartedPast_one {s : State} {g : SegIx} (quiet : (s.seg g).takeRestart.raises = []) :
    RestartedPast s (s.onSegment g (s.seg g).takeRestart) [g] := by
  obtain ⟨ps, delivered⟩ := State.deliver_only (s.setSeg g (clocked s.now (s.seg g).takeRestart.seg)) g
    (s.seg g).takeRestart.sends
  have event : s.onSegment g (s.seg g).takeRestart =
      (s.setSeg g (clocked s.now (s.seg g).takeRestart.seg)).deliver g (s.seg g).takeRestart.sends := by
    rw [State.onSegment_eq, quiet]
    rfl
  refine ⟨?_, fun h taken => ?_, fun h untaken => ?_, fun r => ?_⟩
  · rw [event, delivered]
    rfl
  · rw [List.mem_singleton.mp taken, event, delivered]
    exact State.seg_setSeg_same s g _
  · rw [event, delivered]
    exact (State.seg_setSeg s g h _).trans (if_neg fun same => untaken (List.mem_singleton.mpr same))
  · rw [event, State.port_deliver]
    simp only [List.flatMap_cons, List.flatMap_nil, List.append_nil]
    rfl

theorem restartedPast_cons {s t u : State} {g : SegIx} {l : List SegIx} (new : g ∉ l) (one : RestartedPast s t [g])
    (past : RestartedPast t u l) : RestartedPast s u (g :: l) := by
  have apart : ∀ h ∈ l, h ∉ [g] := fun h taken same => new (by rw [← List.mem_singleton.mp same]; exact taken)
  have now : t.now = s.now := by rw [one.rest]
  refine ⟨?_, fun h taken => ?_, fun h untaken => ?_, fun r => ?_⟩
  · rw [past.rest]
    conv_lhs => rw [one.rest]
  · rcases List.mem_cons.mp taken with rfl | later
    · rw [past.untaken h new, one.taken h (List.mem_singleton_self h)]
    · rw [past.taken h later, one.untaken h (apart h later), now]
  · obtain ⟨other, later⟩ := not_or.mp (mt List.mem_cons.mpr untaken)
    rw [past.untaken h later, one.untaken h fun same => other (List.mem_singleton.mp same)]
  · have sends : (l.flatMap fun h => comingTo r h (t.seg h).takeRestart.sends) =
        l.flatMap fun h => comingTo r h (s.seg h).takeRestart.sends :=
      List.flatMap_congr fun h taken => by rw [one.untaken h (apart h taken)]
    rw [past.ports r, sends, one.ports r]
    simp only [List.flatMap_cons, List.flatMap_nil, List.append_nil, List.append_assoc]

theorem RestartedPast.interpOf_eq {s t : State} {l : List SegIx} (past : RestartedPast s t l) (p : Port) :
    t.interpOf p = s.interpOf p := by
  rw [past.rest]
  rfl

theorem restartedPast_fold (l : List SegIx) (distinct : l.Nodup) (s : State)
    (quiet : ∀ g ∈ l, (s.seg g).takeRestart.raises = []) :
    RestartedPast s (l.foldl (fun t g => t.onSegment g (t.seg g).takeRestart) s) l := by
  induction l generalizing s with
  | nil => exact ⟨rfl, fun _ none => absurd none List.not_mem_nil, fun _ _ => rfl, fun r => by simp⟩
  | cons g l ih =>
    obtain ⟨new, distinct⟩ := List.nodup_cons.mp distinct
    have one := restartedPast_one (quiet g List.mem_cons_self)
    refine restartedPast_cons new one (ih distinct _ fun h taken => ?_)
    rw [one.untaken h fun same => new (List.mem_singleton.mp same ▸ taken)]
    exact quiet h (List.mem_cons_of_mem g taken)

theorem restartedPast_step2 {s : State} (ok : segmentsOk s) :
    ∃ t, s.restartStep2 = t ∧ RestartedPast s t (List.finRange 8) :=
  ⟨_, rfl, restartedPast_fold _ (List.nodup_finRange 8) s fun g _ => Segment.takeRestart_raises (ok g).1⟩

/-! ### The five steps (R192) -/

theorem exec_restart_step (p : Port) (straps : BitVec 2) (s : State) :
    exec (.restart p straps false) s = .next (s.restartStep p straps) := rfl

theorem State.restartProgress_of_passed {s : State} {p : Port} {e : Execution} (running : (s.interpOf p).execution = some e)
    (passed : e.progress = .passed .restart) : s.restartProgress p = some (0, 0#8, 0#8) := by
  simp only [State.restartProgress, running, passed]

theorem State.restartProgress_of_restarting {s : State} {p : Port} {e : Execution} {n : Nat} {gen : BitVec 8} {address : Byte}
    (running : (s.interpOf p).execution = some e) (at_ : e.progress = .restarting n gen address) :
    s.restartProgress p = some (n, gen, address) := by
  simp only [State.restartProgress, running, at_]

/-- The execution moved on to a step, by an update that left the interpreter as it was. -/
theorem State.atRestartStep_eq {s u : State} {p : Port} {e : Execution} (running : (s.interpOf p).execution = some e)
    (kept : u.interpOf p = s.interpOf p) (n : Nat) (gen : BitVec 8) (address : Byte) :
    u.atRestartStep p n gen address =
      u.setInterp p { s.interpOf p with execution := some { e with progress := .restarting n gen address } } := by
  rw [State.atRestartStep, kept, running]
  rfl

/-- Settles O51, step by step. -/
theorem restartTakesItsFiveSteps : Obligations.RestartTakesItsFiveSteps := by
  intro s p straps e running o c at_
  refine ⟨fun passed => ?_, fun gen address two ok => ?_, fun gen address three => ?_, fun gen address four => ?_,
    fun gen address five => ?_, fun passed => ⟨_, _, _, _, _, rfl, rfl, rfl, rfl, rfl, rfl⟩⟩
  · rw [exec_restart_step]
    simp only [State.restartStep, State.restartProgress_of_passed running passed]
    rw [State.atRestartStep_eq (u := s.restartStep1 p) running rfl]
    refine ⟨fun outside => ?_, fun notIdle addressed => ?_⟩
    · rw [State.restartStep1, State.onPort_self _ _ _ (PortCtl.takeCancellation_of_outside outside)]
    · rw [State.restartStep1, State.onPort, PortCtl.takeCancellation_of_inside notIdle addressed, PortCtl.cancelContext_eq]
  · obtain ⟨t, stepped, past⟩ := restartedPast_step2 ok
    refine ⟨t, fun g => (s.seg g).takeRestart.sends, ?_, past.rest, fun g => ?_, past.ports⟩
    · rw [exec_restart_step]
      simp only [State.restartStep, State.restartProgress_of_restarting running two]
      rw [stepped, State.atRestartStep_eq running (past.interpOf_eq p)]
    · intro x
      have taken := past.taken g (List.mem_finRange g)
      refine ⟨fun owned => ?_, fun watching => ?_, fun off => ?_⟩
      · obtain ⟨y, more, released⟩ := Segment.exists_releasedBy { x with queue := [] }
        have event := Segment.takeRestart_of_owned (ok g).1 owned released
        exact ⟨y, more, released, by rw [taken, event], congrArg SegStep.sends event⟩
      · have event := Segment.takeRestart_of_watching watching
        refine ⟨?_, congrArg SegStep.sends event⟩
        rw [taken, event, clocked_of_timerOk (by exact (ok g).2)]
      · have event := Segment.takeRestart_of_off off
        refine ⟨?_, congrArg SegStep.sends event⟩
        rw [taken, event, clocked_of_timerOk (ok g).2]
  · rw [exec_restart_step]
    simp only [State.restartStep, State.restartProgress_of_restarting running three]
    rw [State.atRestartStep_eq (u := s.restartTable straps) running rfl]
    rfl
  · refine ⟨s.emptyNotices, ?_, ?_, fun k => s.note_emptyNotices k⟩
    · rw [exec_restart_step]
      simp only [State.restartStep, State.restartProgress_of_restarting running four]
      rw [State.atRestartStep_eq (u := s.emptyNotices) running rfl]
    · rw [State.emptyNotices, State.withNotices, alertLevel_replicate_absent]
  · rw [exec_restart_step]
    simp only [State.restartStep, State.restartProgress_of_restarting running five]
    rw [State.restartStep5, writeResponse_eq]
    cases p <;> rfl

end Sys2Proof.Machine
end

section
/-! Commands that cannot happen where their block stands: none changes the state (logs 2, 8 and 29). -/

namespace Sys2Proof.Machine

/-! ### A port's events -/

namespace PortCtl

variable {q : PortCtl}

theorem takeStartCondition_of_held (held : q.hold.isSome = true) : q.takeStartCondition = q := if_pos held

theorem takeStop_of_held (held : q.hold.isSome = true) : q.takeStop = q := if_pos held

theorem takeFirstByte_of_untimely (untimely : q.phase ≠ .address ∨ q.hold.isSome = true) (now : Nat) (b : Byte) :
    q.takeFirstByte now b = (q, false) :=
  if_neg fun ⟨phase, free⟩ => untimely.elim (fun other => other phase) fun held => by simp [free] at held

theorem takeLowByte_of_untimely (untimely : q.phase ≠ .tenLow ∨ q.hold.isSome = true) (now : Nat) (b : Byte) :
    q.takeLowByte now b = (q, false) :=
  if_neg fun ⟨phase, free⟩ => untimely.elim (fun other => other phase) fun held => by simp [free] at held

theorem takeWriteByte_of_untimely (untimely : q.phase ≠ .write ∨ q.hold.isSome = true) (now : Nat) (b : Byte) :
    q.takeWriteByte now b = q := by
  unfold takeWriteByte
  split
  · rename_i phase free _
    rcases untimely with other | held
    · exact absurd phase other
    · simp [free] at held
  · rfl

theorem takeReadClock_of_untimely (untimely : q.phase ≠ .read ∨ q.hold.isSome = true) (now : Nat) :
    q.takeReadClock now = q :=
  if_neg fun ⟨phase, free⟩ => untimely.elim (fun other => other phase) fun held => by simp [free] at held

theorem takeHostAck_of_untimely (untimely : q.phase ≠ .read ∨ q.shown = false) (ack : Bool) : q.takeHostAck ack = q := by
  unfold takeHostAck
  split
  · rename_i phase shown _
    rcases untimely with other | hidden
    · exact absurd phase other
    · simp [shown] at hidden
  · rfl

end PortCtl

theorem State.onPortMiss_self {s : State} {p : Port} {r : PortCtl × Bool} (same : r = (s.port p, false)) :
    s.onPortMiss p r = s := by
  rw [same, State.onPortMiss_quiet, State.setPort_self]

theorem portEvents_untimely (s : State) (p : Port) :
    ((s.port p).hold.isSome = true → ∀ c ∈ [Instr.upstreamStart p, .upstreamStop p, .upstreamRestart p], exec c s = .next s) ∧
    ((s.port p).phase ≠ .address ∨ (s.port p).hold.isSome = true → ∀ a d h,
      exec (.addressByte p a d) s = .next s ∧ exec (.prefixWrite p h) s = .next s ∧ exec (.prefixRead p h) s = .next s) ∧
    ((s.port p).phase ≠ .tenLow ∨ (s.port p).hold.isSome = true → ∀ b, exec (.lowByte p b) s = .next s) ∧
    ((s.port p).phase ≠ .command → ∀ b, exec (.commandByte p b) s = .next s) ∧
    ((s.port p).phase ≠ .response → exec (.responseByte p) s = .next s) ∧
    ((s.port p).phase ≠ .write ∨ (s.port p).hold.isSome = true → ∀ b, exec (.writeDataByte p b) s = .next s) ∧
    ((s.port p).phase ≠ .read ∨ (s.port p).hold.isSome = true → exec (.readDataByte p) s = .next s) ∧
    ((s.port p).phase ≠ .read ∨ (s.port p).shown = false → ∀ ack, exec (.hostAcknowledge p ack) s = .next s) ∧
    ((s.port p).phase ≠ .absorb → ∀ d, exec (.absorbByte p d) s = .next s) ∧
    ((s.port p).phase ≠ .ending → exec (.endingByte p) s = .next s) ∧
    ((s.port p).hold = none → exec (.holdExpiry p) s = .next s) := by
  refine ⟨fun held c row => ?_, fun untimely a d h => ⟨?_, ?_, ?_⟩, fun untimely b => ?_, fun other b => ?_, fun other => ?_,
    fun untimely b => ?_, fun untimely => ?_, fun untimely ack => ?_, fun other d => ?_, fun other => ?_, fun free => ?_⟩
  · simp only [List.mem_cons, List.not_mem_nil, or_false] at row
    rcases row with rfl | rfl | rfl
    · exact congrArg _ (s.onPort_self p _ (PortCtl.takeStartCondition_of_held held))
    · exact congrArg _ (s.onPort_self p _ (PortCtl.takeStop_of_held held))
    · exact congrArg _ (s.onPort_self p _ (PortCtl.takeStartCondition_of_held held))
  · exact congrArg _ (State.onPortMiss_self (PortCtl.takeFirstByte_of_untimely untimely _ _))
  · exact congrArg _ (State.onPortMiss_self (PortCtl.takeFirstByte_of_untimely untimely _ _))
  · exact congrArg _ (State.onPortMiss_self (PortCtl.takeFirstByte_of_untimely untimely _ _))
  · exact congrArg _ (State.onPortMiss_self (PortCtl.takeLowByte_of_untimely untimely _ _))
  · exact congrArg _ (s.onPort_self p _ (if_neg other))
  · exact congrArg _ (s.onPort_self p _ (if_neg other))
  · exact congrArg _ (s.onPort_self p _ (PortCtl.takeWriteByte_of_untimely untimely _ _))
  · exact congrArg _ (s.onPort_self p _ (PortCtl.takeReadClock_of_untimely untimely _))
  · exact congrArg _ (s.onPort_self p _ (PortCtl.takeHostAck_of_untimely untimely _))
  · exact congrArg _ (s.onPort_self p _ (if_neg other))
  · exact congrArg _ (s.onPort_self p _ (if_neg other))
  · change execHoldExpiry p s = _
    rw [execHoldExpiry, free]

/-! ### Messages to and from the table manager -/

theorem tableMessages_untimely (s : State) (p : Port) :
    let first := (s.port p).toTable.head?
    ((∀ q, first ≠ some (.lookup q)) ∨ (s.port p).fromTable ≠ [] → exec (.lookup p) s = .next s) ∧
    ((∀ h, first ≠ some (.prefixTest h)) → exec (.prefixTest p) s = .next s) ∧
    ((∀ k gen, first ≠ some (.unbind k gen)) → exec (.unbind p) s = .next s) ∧
    ((∀ k gen, first ≠ some (.acceptance k gen)) → exec (.acceptanceReport p) s = .next s) ∧
    ((∀ k gen, first ≠ some (.refusal k gen)) → exec (.refusalReport p) s = .next s) ∧
    ((∀ q v n b, (s.port p).fromTable.head? ≠ some (.lookup q v n b)) → exec (.lookupOutcome p) s = .next s) ∧
    ((∀ a, (s.port p).fromTable.head? ≠ some (.prefixTest a)) → exec (.prefixOutcome p) s = .next s) := by
  intro first
  have front : ∀ {m rest}, (s.port p).toTable = m :: rest → first = some m := fun front => by
    simp only [first, front, List.head?_cons]
  refine ⟨fun untimely => ?_, fun other => ?_, fun other => ?_, fun other => ?_, fun other => ?_, fun other => ?_,
    fun other => ?_⟩
  · change execLookup p s = _
    unfold execLookup
    split
    · rename_i toTable empty
      exact absurd (front toTable) (untimely.elim (fun other => other _) fun some => absurd empty some)
    · rfl
  · change execPrefixTest p s = _
    unfold execPrefixTest
    split
    · exact absurd (front (by assumption)) (other _)
    · rfl
  · change execUnbind p s = _
    unfold execUnbind
    split
    · exact absurd (front (by assumption)) (other _ _)
    · rfl
  · change execAcceptanceReport p s = _
    unfold execAcceptanceReport
    split
    · exact absurd (front (by assumption)) (other _ _)
    · rfl
  · change execRefusalReport p s = _
    unfold execRefusalReport
    split
    · exact absurd (front (by assumption)) (other _ _)
    · rfl
  · change execLookupOutcome p s = _
    unfold execLookupOutcome
    split
    · rename_i fromTable
      exact absurd (congrArg List.head? fromTable) (other _ _ _ _)
    · rfl
  · change execPrefixOutcome p s = _
    unfold execPrefixOutcome
    split
    · rename_i fromTable
      exact absurd (congrArg List.head? fromTable) (other _)
    · rfl

/-! ### Messages to and from the segments -/

theorem segmentMessages_untimely (s : State) (p : Port) :
    let first := (s.port p).toSegments.head?
    ((∀ g n, first ≠ some (g, .request n)) → exec (.segmentRequest p) s = .next s) ∧
    ((∀ g, first ≠ some (g, .withdrawal)) → exec (.withdrawal p) s = .next s) ∧
    ((∀ g, first ≠ some (g, .release)) → exec (.release p) s = .next s) ∧
    ((∀ g a, first ≠ some (g, .ask a)) → exec (.ask p) s = .next s) := by
  intro first
  have front : ∀ {m rest}, (s.port p).toSegments = m :: rest → first = some m := fun front => by
    simp only [first, front, List.head?_cons]
  refine ⟨fun other => ?_, fun other => ?_, fun other => ?_, fun other => ?_⟩
  · change execSegmentRequest p s = _
    unfold execSegmentRequest
    split
    · exact absurd (front (by assumption)) (other _ _)
    · rfl
  · change execWithdrawal p s = _
    unfold execWithdrawal
    split
    · exact absurd (front (by assumption)) (other _)
    · rfl
  · change execRelease p s = _
    unfold execRelease
    split
    · exact absurd (front (by assumption)) (other _)
    · rfl
  · change execAsk p s = _
    unfold execAsk
    split
    · exact absurd (front (by assumption)) (other _ _)
    · rfl

theorem PortCtl.takeFrom_eq_some {g : SegIx} {l rest : List (SegIx × PortMsg)} {m : PortMsg}
    (taken : PortCtl.takeFrom g l = some (m, rest)) :
    ∃ before after, l = before ++ (g, m) :: after ∧ (∀ e ∈ before, e.1 ≠ g) ∧ rest = before ++ after := by
  induction l generalizing rest with
  | nil => cases taken
  | cons e l ih =>
    obtain ⟨h, n⟩ := e
    by_cases same : h = g
    · subst same
      simp only [PortCtl.takeFrom, if_true, Option.some.injEq, Prod.mk.injEq] at taken
      obtain ⟨rfl, rfl⟩ := taken
      exact ⟨[], l, rfl, fun _ none => absurd none List.not_mem_nil, rfl⟩
    · simp only [PortCtl.takeFrom, if_neg same, Option.map_eq_some_iff] at taken
      obtain ⟨⟨m', rest'⟩, later, same'⟩ := taken
      cases same'
      obtain ⟨before, after, rfl, others, rfl⟩ := ih later
      refine ⟨(h, n) :: before, after, rfl, fun e member => ?_, rfl⟩
      rcases List.mem_cons.mp member with rfl | inside
      · exact same
      · exact others e inside

/-- A message of another kind first under way from the segment, or none, is not taken. -/
theorem State.takeMessage_of_absent {s : State} {p : Port} {g : SegIx} {f : PortMsg → PortCtl → Option PortCtl}
    (absent : ∀ m rest, firstMessage (s.port p) g m rest → ∀ q, f m q = none) : s.takeMessage p g f = s := by
  unfold State.takeMessage
  split
  · rename_i m rest taken
    rw [absent m rest (PortCtl.takeFrom_eq_some taken)]
  · rfl

theorem segmentReplies_untimely (s : State) (p : Port) (g : SegIx) :
    let absent := fun m : PortMsg => ∀ rest, ¬ firstMessage (s.port p) g m rest
    ((∀ n, absent (.grant n)) → exec (.grantTaken p g) s = .next s) ∧
    ((∀ n, absent (.refusal n)) → exec (.refusalTaken p g) s = .next s) ∧
    (absent (.addressResult true) → exec (.addressAck p g) s = .next s) ∧
    (absent (.addressResult false) → exec (.addressNack p g) s = .next s) ∧
    ((∀ a, absent (.writeResult a)) → exec (.writeByteResult p g) s = .next s) ∧
    ((∀ b, absent (.readResult b)) → exec (.readByteResult p g) s = .next s) ∧
    (absent .ackBitDone → exec (.ackBitDone p g) s = .next s) ∧
    (absent .lost → exec (.lost p g) s = .next s) ∧
    (absent .fault → exec (.fault p g) s = .next s) ∧
    (absent .cancelled → exec (.cancelled p g) s = .next s) := by
  intro absent
  refine ⟨fun none => ?_, fun none => ?_, fun none => ?_, fun none => ?_, fun none => ?_, fun none => ?_, fun none => ?_,
    fun none => ?_, fun none => ?_, fun none => ?_⟩
  all_goals
    refine congrArg Host.Outcome.next (State.takeMessage_of_absent fun m rest first q => ?_)
    split
    · exact absurd first (by apply none)
    · rfl

end Sys2Proof.Machine
end

section
/-! Commands of the interpreter, of the table and of the segments that cannot happen where their block stands: none changes the
state (logs 2, 8 and 29). -/

namespace Sys2Proof.Machine

/-! ### The interpreter's commands -/

/-- A row that the port's execution has not passed on. -/
theorem row_unpassed {s : State} {p : Port} {t : ReplyTime} {row : Instr}
    (listed : row ∈ [Instr.stage p t, .unstage p t, .mark p t, .unmark p t, .commit p t, .abandon p t, .renew p t, .revive p t,
      .readRecord p t, .probe p t, .readStatus p t, .readSegment p t, .readNotices p t, .segmentConfig p t,
      .enable p t, .disable p t, .recover p t, .portConfig p t, .globalConfig p t, .clearNotices p t])
    (unpassed : ∀ c, s.passedCommand p = some c → rowOf p t c ≠ some row) : exec row s = .next s := by
  simp only [List.mem_cons, List.not_mem_nil, or_false] at listed
  rcases listed with rfl | rfl | rfl | rfl | rfl | rfl | rfl | rfl | rfl | rfl | rfl | rfl | rfl | rfl | rfl | rfl | rfl | rfl |
    rfl | rfl
  all_goals
    simp only [exec, execStage, execUnstage, execMark, execUnmark, execCommit, execAbandon, execRenew, execRevive,
      execReadRecord, execProbe, execReadStatus, execReadSegment, execReadNotices, execSegmentConfig, execEnable, execDisable,
      execRecover, execPortConfig, execGlobalConfig, execClearNotices]
    split
    · rename_i passed
      exact absurd rfl (unpassed _ passed)
    · rfl

theorem restartProgress_of_none {s : State} {p : Port}
    (idle : ∀ e, (s.interpOf p).execution = some e →
      e.progress ≠ .passed .restart ∧ ∀ n gen a, e.progress ≠ .restarting n gen a) : s.restartProgress p = none := by
  unfold State.restartProgress
  split
  · rename_i e running
    obtain ⟨unpassed, unbegun⟩ := idle e running
    split
    · exact absurd (by assumption) unpassed
    · exact absurd (by assumption) (unbegun _ _ _)
    · rfl
  · rfl

theorem State.restartStep_of_none {s : State} {p : Port} (idle : s.restartProgress p = none) (straps : BitVec 2) :
    s.restartStep p straps = s := by
  rw [State.restartStep, idle]

theorem State.restartWhole_of_none {s : State} {p : Port} (idle : s.restartProgress p = none) (straps : BitVec 2) :
    s.restartWhole p straps = s := by
  simp [State.restartWhole, List.range_succ, State.restartStep_of_none idle]

theorem PortCtl.takeOwnDone_of_none {q : PortCtl} (absent : q.ownDone = false) : q.takeOwnDone = (q, false) := by
  rw [PortCtl.takeOwnDone, absent]
  rfl

theorem PortCtl.takeRestartDone_of_none {q : PortCtl} (absent : q.restartDone = false) : q.takeRestartDone = (q, false) := by
  rw [PortCtl.takeRestartDone, absent]
  rfl

theorem interpreterCommands_untimely (s : State) (p : Port) (t : ReplyTime) (straps : BitVec 2) (whole : Bool) :
    (∀ row ∈ [Instr.stage p t, .unstage p t, .mark p t, .unmark p t, .commit p t, .abandon p t, .renew p t, .revive p t,
              .readRecord p t, .probe p t, .readStatus p t, .readSegment p t, .readNotices p t, .segmentConfig p t,
              .enable p t, .disable p t, .recover p t, .portConfig p t, .globalConfig p t, .clearNotices p t],
      (∀ c, s.passedCommand p = some c → rowOf p t c ≠ some row) → exec row s = .next s) ∧
    ((∀ e, (s.interpOf p).execution = some e →
        e.progress ≠ .passed .restart ∧ ∀ n gen a, e.progress ≠ .restarting n gen a) →
      exec (.restart p straps whole) s = .next s) ∧
    ((s.port p).handedOver = none ∨ (s.port p).toTable ≠ [] ∨ (s.interpOf p).execution ≠ none →
      exec (.handOver p) s = .next s) ∧
    ((s.port p).ownDone = false → (∀ e r, (s.interpOf p).execution = some e → e.progress ≠ .replying r) →
      exec (.executionComplete p p) s = .next s) ∧
    ((s.port p).restartDone = false → exec (.executionComplete p (otherPort p)) s = .next s) := by
  refine ⟨fun row listed unpassed => row_unpassed listed unpassed, fun idle => ?_, fun untimely => ?_,
    fun absent written => ?_, fun absent => ?_⟩
  · have idle := restartProgress_of_none idle
    cases whole
    · exact congrArg _ (State.restartStep_of_none idle straps)
    · exact congrArg _ (State.restartWhole_of_none idle straps)
  · change execHandOver p s = _
    unfold execHandOver
    split
    · rename_i frame empty free
      rcases untimely with noFrame | waiting | busy
      · simp [noFrame] at frame
      · exact absurd empty waiting
      · exact absurd free busy
    · rfl
  · change execExecutionComplete p p s = _
    rw [execExecutionComplete, if_pos rfl, writeWaiting_of_none written,
      State.onPortMiss_self (PortCtl.takeOwnDone_of_none absent)]
  · change execExecutionComplete p (otherPort p) s = _
    rw [execExecutionComplete, if_neg (by cases p <;> decide),
      State.onPortMiss_self (PortCtl.takeRestartDone_of_none absent)]

/-! ### Expiries of the table manager -/

theorem tableExpiries_untimely (s : State) (k : SlotIx) :
    (¬ serves (s.slot k) ∨ (∀ e, (s.slot k).lease ≠ .running e) → exec (.leaseExpiry k) s = .next s) ∧
    (s.changeSet = .empty → exec .idleExpiry s = .next s) := by
  refine ⟨fun untimely => ?_, fun empty => ?_⟩
  · change execLeaseExpiry k s = _
    unfold execLeaseExpiry
    split
    · rename_i e running
      rcases untimely with out | stopped
      · refine if_neg fun inService => out ?_
        simpa [Slot.inService, serves] using inService
      · exact absurd running (stopped e)
    all_goals rfl
  · change execIdleExpiry s = _
    rw [execIdleExpiry, empty]

/-! ### A segment's events -/

theorem State.next_of_unchanged {s : State} {g : SegIx} {r : SegStep} (ok : timerOk (s.seg g))
    (same : r = { seg := s.seg g }) : (.next (s.onSegment g r) : StepResult) = .next s := by
  rw [same, State.onSegment_self ok]

namespace Segment

variable {x : Segment}

theorem comeToRestart_of_other (other : ∀ a rest, x.asks ≠ .address .w10 a .read :: rest) : x.comeToRestart = x := by
  unfold comeToRestart
  split
  · exact absurd (by assumption) (other _ _)
  all_goals rfl

/-- The end of an ADDRESS that its guard holds back, or of none. -/
theorem addressEnd_of_blocked {n : Nat}
    (blocked : ∀ w a d rest, x.asks = .address w a d :: rest →
      (x.begun && decide (acksSeen x.stage ≤ n) && (x.linesHigh || !endMakesRestart x.stage w d n)) = false) :
    x.addressEnd n = { seg := x } := by
  unfold addressEnd
  split
  · rename_i asks
    rw [blocked _ _ _ _ asks]
    rfl
  all_goals rfl

theorem addressEnd_of_low (stage : x.stage ∈ [Stage.waiting, .toRestart]) (low : x.dsclLow = true ∨ x.dsdaLow = true)
    (n : Nat) : x.addressEnd n = { seg := x } := by
  refine addressEnd_of_blocked fun w a d rest asks => ?_
  simp only [List.mem_cons, List.not_mem_nil, or_false] at stage
  rcases stage with stage | stage <;> simp [x.linesHigh_eq_false_iff.mpr low, stage, endMakesRestart]

theorem addressEnd_of_restart_low {a : Addr} {rest : List Primitive} {n : Nat} (asks : x.asks = .address .w10 a .read :: rest)
    (stage : x.stage = .driving) (two : 2 ≤ n) (low : x.dsclLow = true ∨ x.dsdaLow = true) :
    x.addressEnd n = { seg := x } := by
  refine addressEnd_of_blocked fun w a' d rest' asks' => ?_
  cases asks.symm.trans asks'
  simp [x.linesHigh_eq_false_iff.mpr low, stage, endMakesRestart, two]

theorem addressEnd_of_few {n : Nat} (stage : x.stage ∈ [Stage.toRestart, .restarted]) (few : n < 2) :
    x.addressEnd n = { seg := x } := by
  refine addressEnd_of_blocked fun w a d rest asks => ?_
  simp only [List.mem_cons, List.not_mem_nil, or_false] at stage
  rcases stage with stage | stage <;> simp [stage, acksSeen, few]

theorem endOf_writeByte_ne_none (g : SegIx) (ack : Bool) (b : Byte) : endOf (.writeByteEnd g ack) g (.writeByte b) ≠ none := by
  simp [endOf]

theorem endOf_readByte_ne_none (g : SegIx) (b : Byte) : endOf (.readByteEnd g b) g .readByte ≠ none := by
  simp [endOf]

theorem endOf_ackBit_ne_none (g : SegIx) (ack : Bool) : endOf (.ackBitEnd g) g (.ackBit ack) ≠ none := by
  cases ack <;> simp [endOf]

/-- An end of a primitive other than the one in progress, or of one that does not drive the lines. -/
theorem primitiveEnd_untimely {s : State} {g : SegIx} (ok : timerOk (s.seg g)) (n : Nat) (ack : Bool) (b : Byte) :
    ∀ c ∈ [Instr.addressEnd g n, .writeByteEnd g ack, .readByteEnd g b, .ackBitEnd g],
      ¬ drives (s.seg g) ∨ (∀ a rest, (s.seg g).asks = a :: rest → endOf c g a = none) → exec c s = .next s := by
  intro c row untimely
  simp only [List.mem_cons, List.not_mem_nil, or_false] at row
  rcases row with rfl | rfl | rfl | rfl
  · refine State.next_of_unchanged ok (addressEnd_of_blocked fun w a d rest asks => ?_)
    rcases untimely with still | other
    · rw [(begun_eq_false_iff _).mpr still]
      rfl
    · have none := other _ _ asks
      simp only [endOf, if_true] at none
      split at none <;> cases none
  all_goals
    refine State.next_of_unchanged ok ?_
    simp only [writeByteEnd, readByteEnd, ackBitEnd]
    split
    · rename_i asks
      refine if_neg fun begun => ?_
      rcases untimely with still | other
      · exact still ((begun_iff _).mp begun)
      · exact absurd (other _ _ asks) (by simp only [endOf_writeByte_ne_none, endOf_readByte_ne_none, endOf_ackBit_ne_none,
          not_false_eq_true])
    all_goals rfl

theorem stopEnd_of_untimely (untimely : x.asks ≠ [] ∨ x.state ∉ [SegState.releasing, .closing]) (now : Nat) :
    x.stopEnd now = { seg := x } := by
  unfold stopEnd
  split
  · rename_i empty
    rcases untimely with busy | other
    · exact absurd (List.isEmpty_iff.mp empty) busy
    · cases state : x.state with
      | releasing | closing => exact absurd state (by rintro state; simp [state] at other)
      | disabled | clearing | idle | owned | faulted => rfl
  · rfl

theorem arbitrationLossAddress_of_untimely
    (untimely : x.state ≠ .owned ∨ ¬ drives x ∨ (∀ w a d rest, x.asks ≠ .address w a d :: rest)) (now : Nat) :
    x.arbitrationLossAddress now = { seg := x } := by
  unfold arbitrationLossAddress
  split
  · rename_i owned asks
    rcases untimely with other | still | other
    · exact absurd owned other
    · exact if_neg fun begun => still ((begun_iff x).mp begun)
    · exact absurd asks (other _ _ _ _)
  · rfl

theorem arbitrationLoss_of_untimely (live : x.state ∉ [SegState.releasing, .closing])
    (untimely : x.state ≠ .owned ∨ ¬ drives x ∨ x.asks = [] ∨ (∃ w a d rest, x.asks = .address w a d :: rest)) (now : Nat) :
    x.arbitrationLoss now = { seg := x } := by
  have data : ∀ {a rest}, x.state = .owned → x.asks = a :: rest → (∀ w ad d, a ≠ .address w ad d) → x.begun ≠ true :=
    fun owned asks other begun => by
      rcases untimely with notOwned | still | empty | ⟨w, ad, d, rest, address⟩
      · exact notOwned owned
      · exact still ((begun_iff x).mp begun)
      · simp [empty] at asks
      · exact other w ad d (List.cons.inj (asks.symm.trans address)).1
  unfold arbitrationLoss
  simp only
  split
  · rename_i owned asks
    exact if_neg (data owned asks (by simp))
  · rename_i owned asks
    exact if_neg (data owned asks (by simp))
  · rename_i owned asks
    exact if_neg (data owned asks (by simp))
  · rename_i state
    simp [state] at live
  · rename_i state
    simp [state] at live
  · rfl

theorem clearCheck_of_other (other : x.state ≠ .clearing) (g : SegIx) (now : Nat) (scl sda : Bool) :
    x.clearCheck g now scl sda = { seg := x } := by
  unfold clearCheck
  split
  · exact absurd (by assumption) other
  all_goals rfl

end Segment

theorem segmentEvents_untimely (s : State) (g : SegIx) (ok : timerOk (s.seg g)) :
    let x := s.seg g
    (x.stage ∈ [Stage.none, .restarted] ∨ (x.stage = .driving ∧ ∀ a rest, x.asks ≠ .address .w10 a .read :: rest) →
      exec (.startCondition g) s = .next s) ∧
    (∀ n ack b, ∀ c ∈ [Instr.addressEnd g n, .writeByteEnd g ack, .readByteEnd g b, .ackBitEnd g],
      ¬ drives x ∨ (∀ a rest, x.asks = a :: rest → endOf c g a = none) → exec c s = .next s) ∧
    (x.stage ∈ [Stage.waiting, .toRestart] → x.dsclLow = true ∨ x.dsdaLow = true →
      ∀ n, exec (.addressEnd g n) s = .next s) ∧
    (∀ a rest n, x.asks = .address .w10 a .read :: rest →
      (x.stage = .driving → 2 ≤ n → x.dsclLow = true ∨ x.dsdaLow = true → exec (.addressEnd g n) s = .next s) ∧
      (x.stage ∈ [Stage.toRestart, .restarted] → n < 2 → exec (.addressEnd g n) s = .next s)) ∧
    (x.asks ≠ [] ∨ x.state ∉ [SegState.releasing, .closing] → exec (.stopEnd g) s = .next s) ∧
    (x.state ≠ .owned ∨ ¬ drives x ∨ (∀ w a d rest, x.asks ≠ .address w a d :: rest) →
      exec (.arbitrationLossAddress g) s = .next s) ∧
    (x.state ∉ [SegState.releasing, .closing] →
      x.state ≠ .owned ∨ ¬ drives x ∨ x.asks = [] ∨ (∃ w a d rest, x.asks = .address w a d :: rest) →
      exec (.arbitrationLoss g) s = .next s) ∧
    (x.state ≠ .clearing → ∀ dscl dsda, exec (.clearCheck g dscl dsda) s = .next s) := by
  intro x
  refine ⟨fun untimely => ?_, fun n ack b => Segment.primitiveEnd_untimely ok n ack b, 
    fun stage low n => State.next_of_unchanged ok (Segment.addressEnd_of_low stage low n),
    fun a rest n asks =>
      ⟨fun stage two low => State.next_of_unchanged ok (Segment.addressEnd_of_restart_low asks stage two low),
        fun stage few => State.next_of_unchanged ok (Segment.addressEnd_of_few stage few)⟩,
    fun untimely => State.next_of_unchanged ok (Segment.stopEnd_of_untimely untimely _),
    fun untimely => State.next_of_unchanged ok (Segment.arbitrationLossAddress_of_untimely untimely _),
    fun live untimely => State.next_of_unchanged ok (Segment.arbitrationLoss_of_untimely live untimely _),
    fun other scl sda => State.next_of_unchanged ok (Segment.clearCheck_of_other other g _ scl sda)⟩
  · rcases untimely with stage | ⟨stage, other⟩
    · simp only [List.mem_cons, List.not_mem_nil, or_false] at stage
      change execStartCondition g s = _
      rcases stage with stage | stage <;> simp only [execStartCondition, show (s.seg g).stage = _ from stage]
    · rw [exec_startCondition_of_driving stage]
      exact State.next_of_unchanged (r := { seg := x.comeToRestart }) ok (by rw [Segment.comeToRestart_of_other other])

/-- Settles O4, block by block. -/
theorem untimelyCommandsChangeNothing : Obligations.UntimelyCommandsChangeNothing :=
  ⟨portEvents_untimely, tableMessages_untimely, segmentMessages_untimely, segmentReplies_untimely,
    interpreterCommands_untimely, tableExpiries_untimely, fun s g _ ok => segmentEvents_untimely s g ok⟩

end Sys2Proof.Machine
end

section
/-! SUPPORT. A port's link with the segments (R67, R96, R100, R103, R107), for any controller in the port's place: what each
kind of change of the controller keeps. -/

namespace Sys2Proof.Machine

/-! ### Standings -/

theorem Segment.standings_eq_zero_iff (x : Segment) (p : Port) : x.standings p = 0 ↔ x.owner ≠ some p ∧ p ∉ x.queue := by
  rw [Segment.standings, Nat.add_eq_zero_iff, List.count_eq_zero]
  simp

/-- A port that owns a segment stands as its owner. -/
theorem State.standing_of_owner {s : State} {p : Port} {w : Standing} {g : SegIx} (stands : s.stands p w)
    (owner : (s.seg g).owner = some p) : w = .owner g := by
  have standing : (s.seg g).standings p ≠ 0 := fun zero => ((Segment.standings_eq_zero_iff _ p).mp zero).1 owner
  cases w with
  | away => exact absurd (stands g) standing
  | owner k =>
    obtain ⟨-, -, others⟩ := stands
    by_contra other
    exact standing (others g fun same => other (by rw [same]))
  | entry k =>
    obtain ⟨queued, one, others⟩ := stands
    by_cases same : g = k
    · subst same
      have := List.count_pos_iff.mpr queued
      rw [Segment.standings, if_pos owner] at one
      omega
    · exact absurd (others g same) standing

/-- A port in a segment's queue stands as its entry. -/
theorem State.standing_of_queued {s : State} {p : Port} {w : Standing} {g : SegIx} (stands : s.stands p w)
    (queued : p ∈ (s.seg g).queue) : w = .entry g := by
  have standing : (s.seg g).standings p ≠ 0 := fun zero => ((Segment.standings_eq_zero_iff _ p).mp zero).2 queued
  cases w with
  | away => exact absurd (stands g) standing
  | entry k =>
    obtain ⟨-, -, others⟩ := stands
    by_contra other
    exact standing (others g fun same => other (by rw [same]))
  | owner k =>
    obtain ⟨owner, one, others⟩ := stands
    by_cases same : g = k
    · subst same
      have := List.count_pos_iff.mpr queued
      rw [Segment.standings, if_pos owner] at one
      omega
    · exact absurd (others g same) standing

/-! ### Giving up, and the leading asks -/

/-- Every message is an ask. -/
def allAsks (l : List (SegIx × SegMsg)) : Prop := ∀ m ∈ l, m.2.ask?.isSome = true

theorem givesUp_of_allAsks {l : List (SegIx × SegMsg)} (asks : allAsks l) : givesUp .away l := by
  induction l with
  | nil => exact trivial
  | cons m l ih =>
    obtain ⟨g, y⟩ := m
    have ask := asks (g, y) List.mem_cons_self
    cases y <;> simp only [SegMsg.ask?, Option.isSome_some, Option.isSome_none, Bool.false_eq_true] at ask
    exact ih fun m later => asks m (List.mem_cons_of_mem _ later)

/-- Messages that give up a standing give up no less when it has gone already. -/
theorem givesUp_away {w : Standing} {l : List (SegIx × SegMsg)} (gives : givesUp w l) : givesUp .away l := by
  induction l generalizing w with
  | nil => exact trivial
  | cons m l ih =>
    obtain ⟨g, y⟩ := m
    cases w with
    | away => exact gives
    | owner k =>
      cases y with
      | ask a => exact ih gives
      | request n => exact gives.elim
      | withdrawal => exact gives.2
      | release => exact gives.2
    | entry k =>
      cases y with
      | ask a => exact gives.elim
      | request n => exact gives.elim
      | withdrawal => exact gives.2
      | release => exact gives.elim

/-- Messages that give up a queue entry give up the ownership that a grant has made of it (R102, R103). -/
theorem givesUp_owner_of_entry {g : SegIx} {l : List (SegIx × SegMsg)} (gives : givesUp (.entry g) l) :
    givesUp (.owner g) l := by
  cases l with
  | nil => exact gives.elim
  | cons m l =>
    obtain ⟨h, y⟩ := m
    cases y with
    | withdrawal => exact gives
    | ask a => exact gives.elim
    | request n => exact gives.elim
    | release => exact gives.elim

/-- The asks at the front of the messages of a port. -/
def leading (l : List (SegIx × SegMsg)) : List Primitive :=
  (l.takeWhile fun m => m.2.ask?.isSome).filterMap fun m => m.2.ask?

theorem PortCtl.leadingAsks_eq (q : PortCtl) : q.leadingAsks = leading q.toSegments := rfl

theorem leading_ask (g : SegIx) (a : Primitive) (l : List (SegIx × SegMsg)) : leading ((g, .ask a) :: l) = a :: leading l := by
  simp [leading, SegMsg.ask?]

theorem leading_other {m : SegIx × SegMsg} (other : m.2.ask? = none) (l : List (SegIx × SegMsg)) : leading (m :: l) = [] := by
  simp [leading, other]

theorem leading_append_other {m : SegIx × SegMsg} (other : m.2.ask? = none) (l : List (SegIx × SegMsg)) :
    leading (l ++ [m]) = leading l := by
  induction l with
  | nil => exact leading_other other []
  | cons n l ih =>
    obtain ⟨g, y⟩ := n
    cases y with
    | ask a => rw [List.cons_append, leading_ask, leading_ask, ih]
    | request n => rfl
    | withdrawal => rfl
    | release => rfl

theorem leading_append {l : List (SegIx × SegMsg)} (asks : allAsks l) (m : List (SegIx × SegMsg)) :
    leading (l ++ m) = leading l ++ leading m := by
  induction l with
  | nil => rfl
  | cons n l ih =>
    obtain ⟨g, y⟩ := n
    have ask := asks (g, y) List.mem_cons_self
    cases y <;> simp only [SegMsg.ask?, Option.isSome_some, Option.isSome_none, Bool.false_eq_true] at ask
    rw [List.cons_append, leading_ask, leading_ask, ih fun m later => asks m (List.mem_cons_of_mem _ later)]
    rfl

/-- The asks of the primitives `as` under way to segment `g`. -/
def asked (g : SegIx) (as : List Primitive) : List (SegIx × SegMsg) := as.map fun a => (g, .ask a)

theorem leading_asked (g : SegIx) (as : List Primitive) : leading (asked g as) = as := by
  induction as with
  | nil => rfl
  | cons a as ih => rw [asked, List.map_cons, leading_ask, ← asked, ih]

theorem allAsks_asked (g : SegIx) (as : List Primitive) : allAsks (asked g as) := by
  intro m member
  obtain ⟨a, -, rfl⟩ := List.mem_map.mp member
  rfl

theorem allAsks_append {l m : List (SegIx × SegMsg)} (hl : allAsks l) (hm : allAsks m) : allAsks (l ++ m) := fun e member =>
  (List.mem_append.mp member).elim (hl e) (hm e)

/-! ### A linked controller -/

/-- The controller goes through a route to a segment. -/
def PortCtl.routed (q : PortCtl) : Prop := ∃ b h w a, q.bound = some b ∧ b.snap.dest = .segment h w a

/-- The primitives outstanding at segment `g` for the controller `q`, as `State.outstanding` says of a port's own. -/
def PortCtl.outstandingAt (q : PortCtl) (s : State) (g : SegIx) : List AskKind :=
  (q.fromSegment g).filterMap PortMsg.kind? ++ (s.seg g).asks.map Primitive.kind ++ q.leadingAsks.map Primitive.kind

/-- No answer to the latest request is under way. -/
def PortCtl.unanswered (q : PortCtl) : Prop := ∀ m ∈ q.fromSegments, m.2.number? ≠ some q.requests

/-- The request of controller `q` in the place of port `p`, as `requestOk` says of a port's own. -/
def PortCtl.requested (q : PortCtl) (s : State) (p : Port) (g : SegIx) : Prop :=
  (∃ w before, s.stands p w ∧ q.toSegments = before ++ [(g, .request q.requests)] ∧ givesUp w before ∧ q.unanswered ∧
    (∀ m ∈ before, m.2 ≠ .request q.requests) ∧ ∀ h, (s.seg h).tickets.get p ≠ q.requests) ∨
  (q.toSegments = [] ∧ s.stands p (.entry g) ∧ (s.seg g).tickets.get p = q.requests ∧ q.unanswered) ∨
  (q.toSegments = [] ∧ ∃ before after, q.fromSegments = before ++ (g, .grant q.requests) :: after ∧
    (∀ m ∈ before ++ after, m.2.number? ≠ some q.requests) ∧ (∀ m ∈ after, m.1 = g → m.2.kind? = none) ∧
    (s.stands p .away ∨ (s.stands p (.owner g) ∧ (s.seg g).asks = [] ∧ ∀ m ∈ after, m.1 = g → m.2.isEnding = false))) ∨
  (q.toSegments = [] ∧ s.stands p .away ∧ (g, .refusal q.requests) ∈ q.fromSegments)

/-- The messages of the controller give up what the port stands for. -/
def PortCtl.settled (q : PortCtl) (s : State) (p : Port) : Prop := ∃ w, s.stands p w ∧ givesUp w q.toSegments

/-- Controller `q` in the place of port `p` is linked with the segments as `LinkOk` says of the port's own. -/
structure PortCtl.Linked (q : PortCtl) (s : State) (p : Port) : Prop where
  unlinked : q.link = .none → ∃ w, s.stands p w ∧ (givesUp w q.toSegments ∨
    (s.restartCancels p ∧ q.awaiting = false ∧ (∃ g, w = .owner g) ∧ allAsks q.toSegments))
  queued : ∀ g, q.link = .queued g → q.routed ∧ q.requested s p g
  owned : ∀ g, q.link = .owned g → (∀ m ∈ q.toSegments, m.1 = g ∧ m.2.ask?.isSome = true) ∧
    (s.stands p .away ∨
      (s.stands p (.owner g) ∧ (∀ m ∈ q.fromSegment g, m.isEnding = false) ∧ askedInPhase q (q.outstandingAt s g)))
  numbers : (∀ m ∈ q.fromSegments, ∀ n, m.2.number? = some n → n ≤ q.requests) ∧
    (∀ g n, (g, SegMsg.request n) ∈ q.toSegments → n ≤ q.requests) ∧ ∀ g, (s.seg g).tickets.get p ≤ q.requests
  given : ∀ g, (s.seg g).owner = some p → q.link ≠ .owned g → (s.seg g).asks.length + q.leadingAsks.length ≤ 3
  waits : s.restartRuns p → q.restartWait = true ∧ q.restartDone = false

theorem linkOk_iff (s : State) (p : Port) : LinkOk s p ↔ (s.port p).Linked s p :=
  ⟨fun ok => ⟨ok.none, ok.queued, ok.owned, ok.numbers, ok.given, ok.waits⟩,
    fun ok => ⟨ok.unlinked, ok.queued, ok.owned, ok.numbers, ok.given, ok.waits⟩⟩

namespace PortCtl

/-- What the changes below leave of a controller: its numbers, and its part of RESTART's wait; messages under way to it may have
been taken. -/
structure SameRest (q r : PortCtl) : Prop where
  fromSegments : ∀ m ∈ r.fromSegments, m ∈ q.fromSegments
  requests : r.requests = q.requests
  restartWait : r.restartWait = q.restartWait
  restartDone : r.restartDone = q.restartDone

namespace Linked

variable {q r : PortCtl} {s : State} {p : Port} {g : SegIx}

theorem stands (h : q.Linked s p) : ∃ w, s.stands p w := by
  cases link : q.link with
  | none =>
    obtain ⟨w, stands, -⟩ := h.unlinked link
    exact ⟨w, stands⟩
  | queued g =>
    obtain ⟨-, ⟨w, -, stands, -⟩ | ⟨-, stands, -⟩ | ⟨-, -, -, -, -, -, stands | ⟨stands, -⟩⟩ | ⟨-, stands, -⟩⟩ :=
      h.queued g link
    exacts [⟨w, stands⟩, ⟨_, stands⟩, ⟨_, stands⟩, ⟨_, stands⟩, ⟨_, stands⟩]
  | owned g =>
    obtain ⟨-, stands | ⟨stands, -⟩⟩ := h.owned g link
    exacts [⟨_, stands⟩, ⟨_, stands⟩]

theorem numbers_of_same (h : q.Linked s p) (rest : q.SameRest r)
    (out : ∀ g n, (g, SegMsg.request n) ∈ r.toSegments → (g, SegMsg.request n) ∈ q.toSegments) :
    (∀ m ∈ r.fromSegments, ∀ n, m.2.number? = some n → n ≤ r.requests) ∧
      (∀ g n, (g, SegMsg.request n) ∈ r.toSegments → n ≤ r.requests) ∧ ∀ g, (s.seg g).tickets.get p ≤ r.requests := by
  obtain ⟨fromBound, toBound, tickets⟩ := h.numbers
  rw [rest.requests]
  exact ⟨fun m member => fromBound m (rest.fromSegments m member), fun g n member => toBound g n (out g n member), tickets⟩

theorem waits_of_same (h : q.Linked s p) (rest : q.SameRest r) :
    s.restartRuns p → r.restartWait = true ∧ r.restartDone = false := by
  rw [rest.restartWait, rest.restartDone]
  exact h.waits

/-- The messages give up what the port stands for, unless a RESTART has cancelled its context. -/
theorem settled_of_unlinked (h : q.Linked s p) (link : q.link = .none) (live : q.awaiting = true ∨ ¬ s.restartCancels p) :
    q.settled s p := by
  obtain ⟨w, stands, gives | ⟨cancels, idle, -⟩⟩ := h.unlinked link
  · exact ⟨w, stands, gives⟩
  · rcases live with awaiting | runs
    · rw [idle] at awaiting
      cases awaiting
    · exact absurd cancels runs

/-- A controller without a link changes: its messages are those it had. -/
theorem keep_unlinked (h : q.Linked s p) (link : q.link = .none) (link' : r.link = .none)
    (out : r.toSegments = q.toSegments) (rest : q.SameRest r)
    (awaits : s.restartCancels p → q.awaiting = false → r.awaiting = false) : r.Linked s p where
  unlinked _ := by
    obtain ⟨w, stands, gives⟩ := h.unlinked link
    rw [out]
    exact ⟨w, stands, gives.imp id fun ⟨cancels, idle, owner, asks⟩ => ⟨cancels, awaits cancels idle, owner, asks⟩⟩
  queued k link := by rw [link'] at link; cases link
  owned k link := by rw [link'] at link; cases link
  numbers := h.numbers_of_same rest fun k n member => out ▸ member
  given k owner _ := by
    rw [leadingAsks_eq, out, ← leadingAsks_eq]
    exact h.given k owner (by rw [link]; exact Link.noConfusion)
  waits := h.waits_of_same rest

/-- A controller that owns a segment takes messages of it and asks more of it. -/
theorem keep_owned (h : q.Linked s p) (link : q.link = .owned g) (link' : r.link = .owned g) (as : List Primitive)
    (out : r.toSegments = q.toSegments ++ asked g as) (taken : List PortMsg)
    (messages : q.fromSegment g = taken ++ r.fromSegment g)
    (phase : ∀ l, askedInPhase q (taken.filterMap PortMsg.kind? ++ l) → askedInPhase r (l ++ as.map Primitive.kind))
    (rest : q.SameRest r) : r.Linked s p := by
  obtain ⟨mine, standing⟩ := h.owned g link
  have asks : allAsks q.toSegments := fun m member => (mine m member).2
  refine ⟨fun none => ?_, fun k queued => ?_, fun k owned => ?_, h.numbers_of_same rest fun k n member => ?_,
    fun k owner other => ?_, h.waits_of_same rest⟩
  · rw [link'] at none; cases none
  · rw [link'] at queued; cases queued
  · obtain rfl : g = k := by rw [link'] at owned; exact Link.owned.inj owned
    refine ⟨fun m member => ?_, standing.imp id fun ⟨stands, live, inPhase⟩ => ⟨stands, fun m member => ?_, ?_⟩⟩
    · rw [out] at member
      rcases List.mem_append.mp member with old | new
      · exact mine m old
      · obtain ⟨a, -, rfl⟩ := List.mem_map.mp new
        exact ⟨rfl, rfl⟩
    · exact live m (by rw [messages]; exact List.mem_append_right _ member)
    · have outstanding : r.outstandingAt s g = (r.fromSegment g).filterMap PortMsg.kind? ++
          (s.seg g).asks.map Primitive.kind ++ q.leadingAsks.map Primitive.kind ++ as.map Primitive.kind := by
        rw [outstandingAt, leadingAsks_eq, out, leading_append asks, leading_asked, leadingAsks_eq, List.map_append,
          List.append_assoc _ (List.map _ _) (List.map _ as)]
      rw [outstanding]
      refine phase _ ?_
      rw [outstandingAt, messages, List.filterMap_append] at inPhase
      simpa only [List.append_assoc] using inPhase
  · rw [out] at member
    rcases List.mem_append.mp member with old | new
    · exact old
    · obtain ⟨a, -, same⟩ := List.mem_map.mp new
      cases same
  · have away : s.stands p .away := by
      rcases standing with away | ⟨stands, -⟩
      · exact away
      · have same := State.standing_of_owner stands owner
        exact absurd link' (by rw [Standing.owner.inj same]; exact other)
    exact absurd (State.standing_of_owner away owner) (by simp)

/-- A controller gives its segment up by a release, maybe after more asks (R47, R90). -/
theorem released (h : q.Linked s p) (link : q.link = .owned g) (link' : r.link = .none) (as : List Primitive)
    (out : r.toSegments = q.toSegments ++ asked g as ++ [(g, .release)])
    (few : ∀ l, askedInPhase q l → l.length + as.length ≤ 3) (rest : q.SameRest r) : r.Linked s p ∧ r.settled s p := by
  obtain ⟨mine, standing⟩ := h.owned g link
  have asks : allAsks (q.toSegments ++ asked g as) :=
    allAsks_append (fun m member => (mine m member).2) (allAsks_asked g as)
  have settled : r.settled s p := by
    rcases standing with away | ⟨owner, -⟩
    · exact ⟨_, away, by rw [out]; exact givesUp_release asks (.inl rfl)⟩
    · exact ⟨_, owner, by rw [out]; exact givesUp_release asks (.inr rfl)⟩
  refine ⟨⟨fun _ => ?_, fun k queued => ?_, fun k owned => ?_, h.numbers_of_same rest fun k n member => ?_,
    fun k owner _ => ?_, h.waits_of_same rest⟩, settled⟩
  · obtain ⟨w, stands, gives⟩ := settled
    exact ⟨w, stands, .inl gives⟩
  · rw [link'] at queued; cases queued
  · rw [link'] at owned; cases owned
  · rw [out] at member
    rcases List.mem_append.mp member with front | last
    · have ask := asks _ front
      cases ask
    · cases List.mem_singleton.mp last
  · rcases standing with away | ⟨stands, -, inPhase⟩
    · exact absurd (State.standing_of_owner away owner) (by simp)
    · obtain rfl := Standing.owner.inj (State.standing_of_owner stands owner)
      have bound := few _ inPhase
      rw [leadingAsks_eq, out, leading_append_other rfl, leading_append (fun m member => (mine m member).2), leading_asked,
        List.length_append]
      rw [outstandingAt, leadingAsks_eq] at bound
      simp only [List.length_append, List.length_map] at bound
      omega

/-- The segment has ended the ownership, so the link goes (R76). -/
theorem ended (h : q.Linked s p) (link : q.link = .owned g) (away : s.stands p .away) (link' : r.link = .none)
    (out : r.toSegments = q.toSegments) (rest : q.SameRest r) : r.Linked s p where
  unlinked _ := by
    obtain ⟨mine, -⟩ := h.owned g link
    exact ⟨_, away, .inl (by rw [out]; exact givesUp_of_allAsks fun m member => (mine m member).2)⟩
  queued k link := by rw [link'] at link; cases link
  owned k link := by rw [link'] at link; cases link
  numbers := h.numbers_of_same rest fun k n member => out ▸ member
  given k owner _ := absurd (State.standing_of_owner away owner) (by simp)
  waits := h.waits_of_same rest

/-- A controller without a link requests a segment under its next number (R53). -/
theorem requests (h : q.Linked s p) (link : q.link = .none) (settled : q.settled s p) (link' : r.link = .queued g)
    (routed : r.routed) (number : r.requests = q.requests + 1)
    (out : r.toSegments = q.toSegments ++ [(g, .request (q.requests + 1))]) (same : r.fromSegments = q.fromSegments)
    (wait : r.restartWait = q.restartWait) (done : r.restartDone = q.restartDone) : r.Linked s p := by
  obtain ⟨fromBound, toBound, tickets⟩ := h.numbers
  obtain ⟨w, stands, gives⟩ := settled
  have unanswered : r.unanswered := fun m member latest => by
    rw [same] at member
    have := fromBound m member _ (latest.trans (by rw [number]))
    omega
  refine ⟨fun none => ?_, fun k queued => ⟨routed, .inl ⟨w, q.toSegments, stands, ?_, gives, unanswered, ?_, ?_⟩⟩,
    fun k owned => ?_, ⟨?_, ?_, ?_⟩, fun k owner _ => ?_, ?_⟩
  · rw [link'] at none; cases none
  · obtain rfl : g = k := by rw [link'] at queued; exact Link.queued.inj queued
    rw [out, number]
  · rintro ⟨k, m⟩ member rfl
    have := toBound k _ member
    omega
  · intro k latest
    have := tickets k
    omega
  · rw [link'] at owned; cases owned
  · intro m member n latest
    rw [same] at member
    have := fromBound m member n latest
    omega
  · intro k n member
    rw [out] at member
    rcases List.mem_append.mp member with old | new
    · have := toBound k n old
      omega
    · cases List.mem_singleton.mp new
      omega
  · intro k
    have := tickets k
    omega
  · rw [leadingAsks_eq, out, leading_append_other rfl, ← leadingAsks_eq]
    exact h.given k owner (by rw [link]; exact Link.noConfusion)
  · rw [wait, done]
    exact h.waits

/-- A controller gives its request up by a withdrawal (R66, R72). -/
theorem withdrawn (h : q.Linked s p) (link : q.link = .queued g) (link' : r.link = .none)
    (out : r.toSegments = q.toSegments ++ [(g, .withdrawal)]) (rest : q.SameRest r) : r.Linked s p := by
  refine ⟨fun _ => ?_, fun k queued => ?_, fun k owned => ?_, h.numbers_of_same rest fun k n member => ?_,
    fun k owner _ => ?_, h.waits_of_same rest⟩
  · obtain ⟨-, ⟨w, before, stands, sent, gives, -⟩ | ⟨empty, stands, -⟩ | ⟨empty, -, -, -, -, -, stands | ⟨stands, -⟩⟩ |
      ⟨empty, stands, -⟩⟩ := h.queued g link
    · refine ⟨w, stands, .inl ?_⟩
      rw [out, sent, List.append_assoc]
      exact givesUp_append gives (givesUp_withdrawn g q.requests)
    all_goals
      refine ⟨_, stands, .inl ?_⟩
      rw [out, empty]
      simp [givesUp]
  · rw [link'] at queued; cases queued
  · rw [link'] at owned; cases owned
  · rw [out] at member
    rcases List.mem_append.mp member with old | new
    · exact old
    · cases List.mem_singleton.mp new
  · rw [leadingAsks_eq, out, leading_append_other rfl, ← leadingAsks_eq]
    exact h.given k owner (by rw [link]; exact Link.noConfusion)

end Linked

end PortCtl

end Sys2Proof.Machine
end

section
/-! SUPPORT. What each event of a port controller keeps of its link: bus conditions, address bytes and their outcomes, data
bytes, the hold expiry. -/

namespace Sys2Proof.Machine

namespace PortCtl

variable {q r : PortCtl} {s : State} {p : Port} {g : SegIx}

/-! ### The primitives outstanding, by phase (R74, R81, R88, R89) -/

theorem carriedAsks_length {l : List AskKind} (carried : carriedAsks l) : l.length ≤ 2 := by
  rcases carried with rfl | rfl | rfl | rfl <;> decide

theorem askedInPhase_address (address : q.phase.receivesAddress = true) (l : List AskKind) :
    askedInPhase q l ↔ carriedAsks l := by
  unfold askedInPhase
  cases phase : q.phase <;> simp [phase, Phase.receivesAddress] at address ⊢

/-- A new address phase carries what the phase before has outstanding (R89, R93). -/
theorem carried_of_free (ok : PortOk q) (owned : q.link = .owned g) (free : q.hold = none) {l : List AskKind}
    (inPhase : askedInPhase q l) : carriedAsks l := by
  have notProxy : q.phase ≠ .proxy := fun proxy => by
    have held := ok.held (.inr proxy)
    rw [free] at held
    cases held
  have phases := ok.unlinked ⟨g, owned⟩
  unfold askedInPhase at inPhase
  unfold carriedAsks
  cases phase : q.phase <;>
    simp only [phase, Phase.ownsSegment, Phase.receivesAddress, free, Option.isSome_none, Bool.false_eq_true, if_false,
      or_self, ne_eq, not_true_eq_false] at inPhase notProxy phases
  · exact inPhase
  · exact inPhase
  · exact .inl inPhase
  · split at inPhase
    · exact .inl inPhase
    · exact inPhase.elim (fun one => .inr (.inl one)) fun two => .inr (.inr (.inr two))
  · exact inPhase.elim .inl fun one => .inr (.inr (.inl one))

theorem askedInPhase_length (ok : PortOk q) (owned : q.link = .owned g) {l : List AskKind} (inPhase : askedInPhase q l) :
    l.length ≤ 3 := by
  have phases := ok.unlinked ⟨g, owned⟩
  unfold askedInPhase at inPhase
  cases phase : q.phase <;>
    simp only [phase, Phase.ownsSegment, Phase.receivesAddress, Bool.false_eq_true, or_self] at inPhase phases
  · exact (carriedAsks_length inPhase).trans (by decide)
  · exact (carriedAsks_length inPhase).trans (by decide)
  · obtain ⟨before, carried, rfl⟩ := inPhase
    have := carriedAsks_length carried
    simp only [List.length_append, List.length_singleton]
    omega
  · rw [inPhase]
    split <;> decide
  · split at inPhase
    · rw [inPhase]; decide
    · rcases inPhase with rfl | rfl <;> decide
  · rcases inPhase with rfl | rfl <;> decide

/-! ### The link by the phase (3.2) -/

theorem link_eq_none (ok : PortOk q)
    (outside : q.phase ∈ [Phase.idle, .unaddressed, .command, .response, .absorb]) : q.link = .none := by
  cases link : q.link with
  | none => rfl
  | queued g =>
    have waiting := ok.queued.mpr ⟨g, link⟩
    simp [waiting] at outside
  | owned g =>
    have phases := ok.unlinked ⟨g, link⟩
    simp only [List.mem_cons, List.not_mem_nil, or_false] at outside
    rcases outside with phase | phase | phase | phase | phase <;>
      simp [phase, Phase.ownsSegment, Phase.receivesAddress] at phases

/-! ### Changes that leave the link alone -/

/-- A change that the link does not see. -/
structure SameLink (q r : PortCtl) : Prop where
  link : r.link = q.link
  phase : r.phase = q.phase
  fetched : r.fetched = q.fetched
  toSegments : r.toSegments = q.toSegments
  fromSegments : r.fromSegments = q.fromSegments
  requests : r.requests = q.requests

theorem requested_congr (toSegments : r.toSegments = q.toSegments) (fromSegments : r.fromSegments = q.fromSegments)
    (requests : r.requests = q.requests) : r.requested s p g ↔ q.requested s p g := by
  simp only [requested, unanswered, toSegments, fromSegments, requests]

namespace Linked

theorem of_sameLink (h : q.Linked s p) (same : q.SameLink r) (bound : ∀ g, q.link = .queued g → r.bound = q.bound)
    (hold : q.phase = .write → r.hold = q.hold) (awaits : s.restartCancels p → q.awaiting = false → r.awaiting = false)
    (waits : s.restartRuns p → r.restartWait = true ∧ r.restartDone = false) : r.Linked s p := by
  obtain ⟨link, phase, fetched, toSegments, fromSegments, requests⟩ := same
  have leads : r.leadingAsks = q.leadingAsks := by rw [leadingAsks_eq, toSegments, leadingAsks_eq]
  have messages : ∀ k, r.fromSegment k = q.fromSegment k := fun k => by rw [fromSegment, fromSegments, fromSegment]
  have asks : ∀ l, askedInPhase q l → askedInPhase r l := fun l inPhase => by
    unfold askedInPhase at inPhase ⊢
    rw [phase, fetched]
    cases write : q.phase with
    | write =>
      simp only [write] at inPhase ⊢
      rwa [hold write]
    | address | tenLow | proxy | read | ending =>
      simp only [write] at inPhase ⊢
      exact inPhase
    | idle | unaddressed | waitGrant | command | response | absorb => trivial
  refine ⟨fun none => ?_, fun k queued => ?_, fun k owned => ?_, ?_, fun k owner other => ?_, waits⟩
  · obtain ⟨w, stands, gives⟩ := h.unlinked (link ▸ none)
    rw [toSegments]
    exact ⟨w, stands, gives.imp id fun ⟨cancels, idle, owner, asks⟩ => ⟨cancels, awaits cancels idle, owner, asks⟩⟩
  · obtain ⟨routed, requested⟩ := h.queued k (link ▸ queued)
    refine ⟨?_, ?_⟩
    · rw [PortCtl.routed, bound k (link ▸ queued)]
      exact routed
    · rw [requested_congr toSegments fromSegments requests]
      exact requested
  · obtain ⟨mine, standing⟩ := h.owned k (link ▸ owned)
    rw [toSegments]
    refine ⟨mine, standing.imp id fun ⟨stands, live, inPhase⟩ => ⟨stands, ?_, asks _ ?_⟩⟩
    · rw [messages]
      exact live
    · rw [outstandingAt, messages, leads]
      exact inPhase
  · rw [fromSegments, toSegments, requests]
    exact h.numbers
  · rw [leads]
    exact h.given k owner (link ▸ other)

/-- A controller that may own a segment gives it up (R47). -/
theorem gives_up (h : q.Linked s p) (notQueued : ∀ g, q.link ≠ .queued g)
    (few : ∀ g, q.link = .owned g → ∀ l, askedInPhase q l → l.length ≤ 3) (link' : r.link = .none)
    (out : r.toSegments = q.toSegments ++ releaseSent q.link) (rest : q.SameRest r)
    (awaits : s.restartCancels p → q.awaiting = false → r.awaiting = false) : r.Linked s p := by
  cases link : q.link with
  | none => exact h.keep_unlinked link link' (by rw [out, link, releaseSent, List.append_nil]) rest awaits
  | queued g => exact absurd link (notQueued g)
  | owned g =>
    refine (h.released link link' [] ?_ (fun l inPhase => few g link l inPhase) rest).1
    rw [out, link, releaseSent, asked, List.map_nil, List.append_nil]

/-- A controller in an address phase, or about to begin one, whose link stays as it is. -/
theorem keeps_carrying (h : q.Linked s p) (notQueued : ∀ g, q.link ≠ .queued g)
    (carried : ∀ g, q.link = .owned g → ∀ l, askedInPhase q l → carriedAsks l) (link' : r.link = q.link)
    (receives : r.phase.receivesAddress = true ∨ q.link = .none) (out : r.toSegments = q.toSegments)
    (messages : r.fromSegments = q.fromSegments)
    (rest : q.SameRest r) (awaits : s.restartCancels p → q.awaiting = false → r.awaiting = false) : r.Linked s p := by
  cases link : q.link with
  | none => exact h.keep_unlinked link (link'.trans link) out rest awaits
  | queued g => exact absurd link (notQueued g)
  | owned g =>
    have address := receives.resolve_right (by rw [link]; exact Link.noConfusion)
    refine h.keep_owned link (link'.trans link) [] (by rw [out, asked, List.map_nil, List.append_nil]) [] ?_
      (fun l inPhase => ?_) rest
    · rw [fromSegment, fromSegment, messages, List.nil_append]
    · rw [List.map_nil, List.append_nil, askedInPhase_address address]
      exact carried g link l inPhase

end Linked

theorem sameRest_of_eq (fromSegments : r.fromSegments = q.fromSegments) (requests : r.requests = q.requests)
    (restartWait : r.restartWait = q.restartWait) (restartDone : r.restartDone = q.restartDone) : q.SameRest r :=
  ⟨fun _ member => fromSegments ▸ member, requests, restartWait, restartDone⟩

theorem few_of_ok (ok : PortOk q) : ∀ g, q.link = .owned g → ∀ l, askedInPhase q l → l.length ≤ 3 :=
  fun _ owned _ inPhase => askedInPhase_length ok owned inPhase

theorem few_of_address (address : q.phase.receivesAddress = true) :
    ∀ g, q.link = .owned g → ∀ l, askedInPhase q l → l.length ≤ 3 := fun _ _ l inPhase =>
  (carriedAsks_length ((askedInPhase_address address l).mp inPhase)).trans (by decide)

/-! ### Bus conditions (R46 to R48) -/

theorem newAddressPhase_linked (h : q.Linked s p) (ok : PortOk q) (free : q.hold = none) : q.newAddressPhase.Linked s p := by
  have notQueued : ∀ g, q.link ≠ .queued g := fun g queued => by
    have held := ok.held (.inl (ok.queued.mpr ⟨g, queued⟩))
    rw [free] at held
    cases held
  exact h.keeps_carrying notQueued (fun g owned l inPhase => carried_of_free ok owned free inPhase) rfl (.inl rfl) rfl rfl
    (sameRest_of_eq rfl rfl rfl rfl) fun _ idle => idle

theorem takeStartCondition_linked (h : q.Linked s p) (ok : PortOk q) : q.takeStartCondition.Linked s p := by
  by_cases free : q.hold = none
  · by_cases idle : q.phase = .idle
    · have link := link_eq_none ok (by simp [idle])
      have start : q.takeStartCondition = q.takeStart := by simp only [takeStartCondition, free, idle, Option.isSome_none,
        Bool.false_eq_true, if_false]
      rw [start]
      exact h.keep_unlinked link link rfl (sameRest_of_eq rfl rfl rfl rfl) fun _ idle => idle
    · rw [takeStartCondition_of_active idle free]
      by_cases command : q.phase = .command
      · rw [takeRestart_of_command command]
        have link := link_eq_none ok (by simp [command])
        exact h.keep_unlinked link link rfl (sameRest_of_eq rfl rfl rfl rfl) fun _ idle => idle
      · rw [takeRestart_of_not_command command]
        exact newAddressPhase_linked h ok free
  · rw [takeStartCondition_of_held (Option.isSome_iff_ne_none.mpr free)]
    exact h

theorem takeStop_linked (h : q.Linked s p) (ok : PortOk q) : q.takeStop.Linked s p := by
  by_cases free : q.hold = none
  · by_cases idle : q.phase = .idle
    · rw [takeStop_of_idle idle]
      exact h
    · have notWaiting : ∀ ph, ph = Phase.waitGrant ∨ ph = .proxy → q.phase ≠ ph := fun ph waits phase => by
        have held := ok.held (waits.imp (fun e => phase.trans e) fun e => phase.trans e)
        rw [free] at held
        cases held
      rw [takeStop_of_active idle free]
      by_cases transaction : q.phase ∈ [Phase.write, .read, .ending, .address, .tenLow]
      · have notQueued := fun g => PortOk.link_ne_queued ok (notWaiting _ (.inl rfl)) g
        rw [giveUpAtStop_of_transaction transaction, released_toPhase_eq_ended notQueued]
        exact h.gives_up notQueued (few_of_ok ok) rfl rfl (sameRest_of_eq rfl rfl rfl rfl) fun _ idle => idle
      · have outside : q.phase ∈ [Phase.idle, .unaddressed, .command, .response, .absorb] := by
          have notGrant := notWaiting _ (.inl rfl)
          have notProxy := notWaiting _ (.inr rfl)
          cases phase : q.phase <;> simp [phase] at transaction notGrant notProxy ⊢
        have link := link_eq_none ok outside
        have kept : q.giveUpAtStop = q ∨ q.giveUpAtStop = q.frameEnded ∨ q.giveUpAtStop = q.giveUpBinding := by
          simp only [List.mem_cons, List.not_mem_nil, or_false] at outside
          rcases outside with phase | phase | phase | phase | phase <;> simp [giveUpAtStop, phase, frameEnd_eq_frameEnded]
        rcases kept with same | same | same
        · rw [same]
          exact h.keep_unlinked link link rfl (sameRest_of_eq rfl rfl rfl rfl) fun _ idle => idle
        · rw [same]
          exact h.keep_unlinked link link rfl (sameRest_of_eq rfl rfl rfl rfl) fun _ idle => idle
        · rw [same, giveUpBinding_eq]
          exact h.keep_unlinked link link rfl (sameRest_of_eq rfl rfl rfl rfl) fun _ idle => idle
  · rw [takeStop_of_held (Option.isSome_iff_ne_none.mpr free)]
    exact h

/-! ### Address bytes (R49, R50, R58 to R61) -/

theorem refuseCarried_linked (h : q.Linked s p) (notQueued : ∀ g, q.link ≠ .queued g)
    (few : ∀ g, q.link = .owned g → ∀ l, askedInPhase q l → l.length ≤ 3) : q.refuseCarried.Linked s p := by
  rw [refuseCarried_eq notQueued]
  exact h.gives_up notQueued few rfl rfl (sameRest_of_eq rfl rfl rfl rfl) fun _ idle => idle

theorem askAddress_linked (h : q.Linked s p) (link : q.link = .owned g)
    (carried : ∀ l, askedInPhase q l → carriedAsks l) (w : Width) (a : Addr) (d : Direction) :
    (q.askAddress w a d).Linked s p := by
  have asks : q.askAddress w a d =
      { q.toPhase .proxy with toSegments := q.toSegments ++ [(g, .ask (.address w a d))] } := by
    simp [askAddress, askSegment, link, sendSegment]
  rw [asks]
  exact h.keep_owned link link [.address w a d] rfl [] rfl (fun l inPhase => ⟨l, carried l inPhase, rfl⟩)
    (sameRest_of_eq rfl rfl rfl rfl)

theorem requestSegment_linked (h : q.Linked s p) (link : q.link = .none) (settled : q.settled s p) (routed : q.routed)
    (g : SegIx) : (q.requestSegment g).Linked s p :=
  h.requests link settled rfl routed rfl rfl rfl rfl rfl

theorem link_of_ownedSegment {k : SegIx} (owned : q.ownedSegment = some k) : q.link = .owned k := by
  unfold ownedSegment at owned
  split at owned
  · rename_i link
    rw [link, Option.some.inj owned]
  all_goals cases owned

theorem link_of_no_ownedSegment (none : q.ownedSegment = none) (notQueued : ∀ g, q.link ≠ .queued g) : q.link = .none := by
  unfold ownedSegment at none
  split at none
  · cases none
  · rename_i link
    exact absurd link (notQueued _)
  · assumption

theorem judgePrefixRead_linked (h : q.Linked s p) (address : q.phase = .address) (notQueued : ∀ g, q.link ≠ .queued g)
    (live : ¬ s.restartCancels p) (b : Byte) : (q.judgePrefixRead b).1.Linked s p := by
  have receives : q.phase.receivesAddress = true := by rw [address]; rfl
  have directed : ({ q with direction := some .read } : PortCtl).Linked s p :=
    h.of_sameLink ⟨rfl, rfl, rfl, rfl, rfl, rfl⟩ (fun _ _ => rfl) (fun _ => rfl) (fun _ idle => idle) h.waits
  have refused := refuseCarried_linked directed notQueued (few_of_address receives)
  unfold judgePrefixRead
  split
  · rename_i bd bound
    split
    · rename_i g w a dest
      split
      · split
        · dsimp only
          split
          · rename_i k owned
            exact askAddress_linked directed (link_of_ownedSegment owned)
              (fun l inPhase => (askedInPhase_address receives l).mp inPhase) w a .read
          · rename_i none
            have link := link_of_no_ownedSegment none notQueued
            exact requestSegment_linked directed link (directed.settled_of_unlinked link (.inr live)) ⟨bd, g, w, a, bound, dest⟩ g
        · exact refused
      · exact refused
    · exact refused
  · exact refused

theorem judgeAddressByte_linked (h : q.Linked s p) (notQueued : ∀ g, q.link ≠ .queued g) (live : ¬ s.restartCancels p)
    (b : Byte) : (q.judgeAddressByte b).1.Linked s p := by
  have judged : ∀ {r : PortCtl}, q.phase.receivesAddress = true → r.link = q.link → r.phase = q.phase →
      r.toSegments = q.toSegments → r.fromSegments = q.fromSegments → q.SameRest r → r.Linked s p :=
    fun receives link phase out messages rest => h.keeps_carrying notQueued
      (fun g _ l inPhase => (askedInPhase_address receives l).mp inPhase) link (.inl (phase ▸ receives)) out messages rest
      fun cancels => absurd cancels live
  unfold judgeAddressByte
  split
  · rename_i address
    have receives : q.phase.receivesAddress = true := by rw [address]; rfl
    split
    · split
      · exact judged receives rfl rfl rfl rfl (sameRest_of_eq rfl rfl rfl rfl)
      · exact judgePrefixRead_linked h address notQueued live b
    · exact judged receives (by simp [judgeSevenBit]) (by simp [judgeSevenBit]) (by simp [judgeSevenBit])
        (by simp [judgeSevenBit]) (sameRest_of_eq (by simp [judgeSevenBit]) (by simp [judgeSevenBit]) (by simp [judgeSevenBit])
          (by simp [judgeSevenBit]))
  · rename_i tenLow
    have receives : q.phase.receivesAddress = true := by rw [tenLow]; rfl
    exact judged receives (by simp [judgeLowByte]) (by simp [judgeLowByte]) (by simp [judgeLowByte])
      (by simp [judgeLowByte]) (sameRest_of_eq (by simp [judgeLowByte]) (by simp [judgeLowByte]) (by simp [judgeLowByte])
        (by simp [judgeLowByte]))
  all_goals exact h

/-- While the other port's RESTART may cancel the context, the interpreter wait keeps an address byte unjudged (R72). -/
theorem live_of_clear (h : q.Linked s p) (clear : q.waiting = false) : ¬ s.restartCancels p := by
  rintro ⟨e, gen, a, running, restarting⟩
  obtain ⟨wait, -⟩ := h.waits ⟨e, running, .inr ⟨1, gen, a, restarting⟩⟩
  simp [waiting, wait] at clear

theorem takeAddressByte_linked (h : q.Linked s p) (receives : q.phase.receivesAddress = true)
    (notQueued : ∀ g, q.link ≠ .queued g) (now : Nat) (b : Byte) : (q.takeAddressByte now b).1.Linked s p := by
  have notWrite : q.phase ≠ .write := fun write => by simp [write, Phase.receivesAddress] at receives
  have held : ∀ {r : PortCtl}, q.SameLink r → r.bound = q.bound → r.awaiting = q.awaiting → r.restartWait = q.restartWait →
      r.restartDone = q.restartDone → r.Linked s p := fun same bound awaiting wait done =>
    h.of_sameLink same (fun _ _ => bound) (fun write => absurd write notWrite) (fun _ idle => awaiting.trans idle)
      (by rw [wait, done]; exact h.waits)
  unfold takeAddressByte
  cases waits : q.waiting with
  | true => exact held ⟨rfl, rfl, rfl, rfl, rfl, rfl⟩ rfl rfl rfl rfl
  | false =>
    have holding : (q.beginHold now).Linked s p := held ⟨rfl, rfl, rfl, rfl, rfl, rfl⟩ rfl rfl rfl rfl
    exact judgeAddressByte_linked holding notQueued (live_of_clear h waits) b

theorem takeFirstByte_linked (h : q.Linked s p) (ok : PortOk q) (now : Nat) (b : Byte) :
    (q.takeFirstByte now b).1.Linked s p := by
  unfold takeFirstByte
  split
  · rename_i timely
    obtain ⟨address, -⟩ := timely
    exact takeAddressByte_linked h (by rw [address]; rfl) (PortOk.link_ne_queued ok (by rw [address]; decide)) now b
  · exact h

theorem takeLowByte_linked (h : q.Linked s p) (ok : PortOk q) (now : Nat) (b : Byte) :
    (q.takeLowByte now b).1.Linked s p := by
  unfold takeLowByte
  split
  · rename_i timely
    obtain ⟨tenLow, -⟩ := timely
    exact takeAddressByte_linked h (by rw [tenLow]; rfl) (PortOk.link_ne_queued ok (by rw [tenLow]; decide)) now b
  · exact h

theorem judgeHeld_linked (h : q.Linked s p) (ok : PortOk q) : q.judgeHeld.1.Linked s p := by
  unfold judgeHeld
  split
  · rename_i b held
    cases waits : q.waiting with
    | true => exact h
    | false =>
      have receives : q.phase.receivesAddress = true := by
        by_contra outside
        obtain ⟨-, none⟩ := ok.notJudging (Bool.not_eq_true _ ▸ outside)
        simp [none] at held
      have dropped : ({ q with held := none } : PortCtl).Linked s p :=
        h.of_sameLink ⟨rfl, rfl, rfl, rfl, rfl, rfl⟩ (fun _ _ => rfl) (fun _ => rfl) (fun _ idle => idle) h.waits
      refine judgeAddressByte_linked dropped (fun g => PortOk.link_ne_queued ok (fun grant => ?_) g) (live_of_clear h waits) b
      simp [grant, Phase.receivesAddress] at receives
  · exact h

end PortCtl

end Sys2Proof.Machine
end

section
/-! SUPPORT. What outcomes, data bytes, the hold expiry and a cancellation keep of a port's link. -/

namespace Sys2Proof.Machine

namespace PortCtl

variable {q r : PortCtl} {s : State} {p : Port} {g : SegIx}

theorem link_cases (q : PortCtl) : q.link = .none ∨ (∃ g, q.link = .queued g) ∨ ∃ g, q.link = .owned g := by
  cases q.link <;> simp

theorem Linked.releases (h : q.Linked s p) (link : q.link = .owned g) (link' : r.link = .none) (as : List Primitive)
    (out : r.toSegments = q.toSegments ++ asked g as ++ [(g, .release)])
    (few : ∀ l, askedInPhase q l → l.length + as.length ≤ 3) (rest : q.SameRest r) : r.Linked s p :=
  (h.released link link' as out few rest).1

/-! ### Outcomes of the table manager (R50 to R53, R56 to R58) -/

theorem receives_of_awaiting (ok : PortOk q) (awaiting : q.awaiting = true) : q.phase.receivesAddress = true := by
  by_contra outside
  obtain ⟨idle, -⟩ := ok.notJudging (Bool.not_eq_true _ ▸ outside)
  simp [idle] at awaiting

/-- The binding of an outcome recorded, while the link stays as it is. -/
theorem recording_linked (h : q.Linked s p) (receives : q.phase.receivesAddress = true) (notQueued : ∀ g, q.link ≠ .queued g)
    (live : q.awaiting = true) (query : Query) (b : Binding) (memory : Option TenBit) :
    (q.recording query b memory).Linked s p ∧ (q.link = .none → (q.recording query b memory).settled s p) := by
  have carried : ∀ g, q.link = .owned g → ∀ l, askedInPhase q l → carriedAsks l := fun _ _ l inPhase =>
    (askedInPhase_address receives l).mp inPhase
  refine ⟨h.keeps_carrying notQueued carried rfl (.inl receives) rfl rfl (sameRest_of_eq rfl rfl rfl rfl) fun _ _ => rfl,
    fun link => ?_⟩
  obtain ⟨w, stands, gives⟩ := h.settled_of_unlinked link (.inl live)
  exact ⟨w, stands, gives⟩

theorem enterLocal_linked (h : q.Linked s p) (notQueued : ∀ g, q.link ≠ .queued g)
    (few : ∀ g, q.link = .owned g → ∀ l, askedInPhase q l → l.length ≤ 3) (d : Direction) : (q.enterLocal d).Linked s p := by
  cases d with
  | write =>
    rw [enterLocal_write notQueued]
    exact h.gives_up notQueued few rfl rfl (sameRest_of_eq rfl rfl rfl rfl) fun _ idle => idle
  | read =>
    rw [enterLocal_read notQueued]
    exact h.gives_up notQueued few rfl rfl (sameRest_of_eq rfl rfl rfl rfl) fun _ idle => idle

theorem enterForward_linked (h : q.Linked s p) (receives : q.phase.receivesAddress = true)
    (notQueued : ∀ g, q.link ≠ .queued g) (settled : q.link = .none → q.settled s p) (routed : q.routed) (g : SegIx)
    (w : Width) (a : Addr) (d : Direction) : (q.enterForward g w a d).Linked s p := by
  have carried : ∀ l, askedInPhase q l → carriedAsks l := fun l => (askedInPhase_address receives l).mp
  unfold enterForward
  split
  · rename_i owned
    exact askAddress_linked h owned carried w a d
  · cases link : q.link with
    | none =>
      rw [show q.releaseSegment = q by rw [releaseSegment, link]]
      exact requestSegment_linked h link (settled link) routed g
    | queued k => exact absurd link (notQueued k)
    | owned k =>
      rw [releaseSegment_of_owned link]
      obtain ⟨released, settled⟩ := h.released (r := { q with
          link := .none, fetched := none, shown := false, toSegments := q.toSegments ++ [(k, .release)] }) link rfl []
        (by simp [asked]) (fun l inPhase => few_of_address receives k link l inPhase) (sameRest_of_eq rfl rfl rfl rfl)
      exact requestSegment_linked released rfl settled routed g

theorem actOnLookup_linked (h : q.Linked s p) (ok : PortOk q) (awaiting : q.awaiting = true) (query : Query)
    (b : Option Binding) : (q.actOnLookup query b).Linked s p := by
  have receives := receives_of_awaiting ok awaiting
  have notQueued := link_ne_queued_of_awaiting ok awaiting
  cases b with
  | none =>
    rw [actOnLookup_of_refusal notQueued]
    exact h.gives_up notQueued (few_of_ok ok) rfl rfl (sameRest_of_eq rfl rfl rfl rfl) fun _ _ => rfl
  | some b =>
    cases dest : b.snap.dest with
    | localPart =>
      rw [actOnLookup_of_local dest]
      exact enterLocal_linked (recording_linked h receives notQueued awaiting query b none).1 notQueued
        (few_of_address receives) query.dir
    | segment g w a =>
      rw [actOnLookup_of_segment dest]
      obtain ⟨recorded, settled⟩ := recording_linked h receives notQueued awaiting query b (match query.width with
        | .w7 => none
        | .w10 => some { slot := b.slot, gen := b.gen, addr := query.addr })
      exact enterForward_linked recorded receives notQueued settled ⟨b, g, w, a, rfl, dest⟩ g w a query.dir

theorem discardOutcome_linked (h : q.Linked s p) (b : Option Binding) : (q.discardOutcome b).Linked s p := by
  rw [discardOutcome_eq]
  exact h.of_sameLink ⟨rfl, rfl, rfl, rfl, rfl, rfl⟩ (fun _ _ => rfl) (fun _ => rfl) (fun _ idle => idle) h.waits

theorem takeLookupOutcome_linked (h : q.Linked s p) (ok : PortOk q) (query : Query) (b : Option Binding) :
    (q.takeLookupOutcome query b).Linked s p := by
  unfold takeLookupOutcome
  split
  · rename_i awaited
    obtain ⟨-, awaiting⟩ := awaited
    exact actOnLookup_linked h ok awaiting query b
  · exact discardOutcome_linked h b

theorem takePrefixOutcome_linked (h : q.Linked s p) (ok : PortOk q) (accepted : Bool) :
    (q.takePrefixOutcome accepted).Linked s p := by
  by_cases awaited : q.stale = 0 ∧ q.awaiting = true
  · obtain ⟨fresh, awaiting⟩ := awaited
    have receives := receives_of_awaiting ok awaiting
    have notQueued := link_ne_queued_of_awaiting ok awaiting
    cases accepted with
    | true =>
      rw [takePrefixOutcome_of_accepted awaiting fresh]
      exact h.keeps_carrying notQueued (fun _ _ l => (askedInPhase_address receives l).mp) rfl (.inl rfl) rfl rfl
        (sameRest_of_eq rfl rfl rfl rfl) fun _ _ => rfl
    | false =>
      rw [takePrefixOutcome_of_refused notQueued awaiting fresh]
      exact h.gives_up notQueued (few_of_ok ok) rfl rfl (sameRest_of_eq rfl rfl rfl rfl) fun _ _ => rfl
  · rw [takePrefixOutcome, if_neg awaited]
    exact discardOutcome_linked h none

/-! ### Data bytes (3.6, 3.8, 4.3, 4.4) -/

/-- A change of a controller that is neither writing nor awaiting anything new. -/
theorem sameLink_linked (h : q.Linked s p) (same : q.SameLink r) (bound : r.bound = q.bound) (notWrite : q.phase ≠ .write)
    (awaiting : r.awaiting = q.awaiting) (wait : r.restartWait = q.restartWait) (done : r.restartDone = q.restartDone) :
    r.Linked s p :=
  h.of_sameLink same (fun _ _ => bound) (fun write => absurd write notWrite) (fun _ idle => awaiting.trans idle)
    (by rw [wait, done]; exact h.waits)

theorem takeCommandByte_linked (h : q.Linked s p) (b : Byte) : (q.takeCommandByte b).Linked s p := by
  unfold takeCommandByte
  split
  · rename_i command
    have notWrite : q.phase ≠ .write := by rw [command]; decide
    split
    · exact sameLink_linked h ⟨rfl, rfl, rfl, rfl, rfl, rfl⟩ rfl notWrite rfl rfl rfl
    · exact sameLink_linked h ⟨rfl, rfl, rfl, rfl, rfl, rfl⟩ rfl notWrite rfl rfl rfl
  · exact h

theorem takeResponseByte_linked (h : q.Linked s p) (buffer : List Byte) : (q.takeResponseByte buffer).Linked s p := by
  unfold takeResponseByte
  split
  · rename_i response
    exact sameLink_linked h ⟨rfl, rfl, rfl, rfl, rfl, rfl⟩ rfl (by rw [response]; decide) rfl rfl rfl
  · exact h

theorem takeAbsorbByte_linked (h : q.Linked s p) (d : Direction) : (q.takeAbsorbByte d).Linked s p := by
  unfold takeAbsorbByte
  split
  · rename_i absorb
    have notWrite : q.phase ≠ .write := by rw [absorb]; decide
    cases d
    · exact sameLink_linked h ⟨rfl, rfl, rfl, rfl, rfl, rfl⟩ rfl notWrite rfl rfl rfl
    · exact sameLink_linked h ⟨rfl, rfl, rfl, rfl, rfl, rfl⟩ rfl notWrite rfl rfl rfl
  · exact h

theorem takeEndingByte_linked (h : q.Linked s p) : q.takeEndingByte.Linked s p := by
  unfold takeEndingByte
  split
  · rename_i ending
    exact sameLink_linked h ⟨rfl, rfl, rfl, rfl, rfl, rfl⟩ rfl (by rw [ending]; decide) rfl rfl rfl
  · exact h

/-- The phase given up toward ABSORB from a forwarding phase. -/
theorem absorb_linked (h : q.Linked s p) (ok : PortOk q) (notQueued : ∀ g, q.link ≠ .queued g) :
    (q.answer .nack).absorb.Linked s p := by
  have absorbed : (q.answer .nack).absorb = { q.ended .absorb with hold := none, lastAnswer := some .nack } :=
    released_toPhase_eq_ended (q := q.answer .nack) notQueued .absorb
  rw [absorbed]
  exact h.gives_up notQueued (few_of_ok ok) rfl rfl (sameRest_of_eq rfl rfl rfl rfl) fun _ idle => idle

theorem takeWriteByte_linked (h : q.Linked s p) (ok : PortOk q) (now : Nat) (b : Byte) :
    (q.takeWriteByte now b).Linked s p := by
  unfold takeWriteByte
  split
  · rename_i bd write free bound
    obtain ⟨g, owned⟩ := ok.owned (by rw [write]; rfl)
    have notQueued : ∀ k, q.link ≠ .queued k := fun k queued => by rw [owned] at queued; cases queued
    split
    · unfold takeDeclaredLength
      split
      · refine h.of_sameLink ⟨rfl, rfl, rfl, rfl, rfl, rfl⟩ (fun _ _ => rfl) (fun _ => ?_) (fun _ idle => idle) h.waits
        exact free.symm
      · exact absorb_linked h ok notQueued
    · split
      · rw [forwarded_eq owned]
        refine h.keep_owned owned owned [.writeByte b] rfl [] rfl (fun l inPhase => ?_) (sameRest_of_eq rfl rfl rfl rfl)
        unfold askedInPhase at inPhase ⊢
        simp only [write, free, List.filterMap_nil, List.nil_append, Option.isSome_none, Bool.false_eq_true, if_false] at inPhase ⊢
        rw [inPhase]
        rfl
      · exact absorb_linked h ok notQueued
  · exact h

theorem takeReadClock_linked (h : q.Linked s p) (now : Nat) : (q.takeReadClock now).Linked s p := by
  unfold takeReadClock
  split
  · rename_i timely
    obtain ⟨read, free⟩ := timely
    have notWrite : q.phase ≠ .write := by rw [read]; decide
    split
    · rename_i b fetched
      split
      · exact h
      · exact sameLink_linked h ⟨rfl, rfl, fetched.symm, rfl, rfl, rfl⟩ rfl notWrite rfl rfl rfl
    · exact sameLink_linked h ⟨rfl, rfl, rfl, rfl, rfl, rfl⟩ rfl notWrite rfl rfl rfl
  · exact h

theorem takeHostAck_linked (h : q.Linked s p) (ok : PortOk q) (ack : Bool) : (q.takeHostAck ack).Linked s p := by
  by_cases timely : q.phase = .read ∧ q.shown = true
  · obtain ⟨read, shown⟩ := timely
    obtain ⟨g, owned⟩ := ok.owned (by rw [read]; rfl)
    obtain ⟨bd, bound⟩ := Option.isSome_iff_exists.mp (ok.bound (by rw [read]; rfl))
    obtain ⟨fetched, -⟩ := ok.shown shown
    have done : ∀ l, askedInPhase q l → l = [] := fun l inPhase => by
      unfold askedInPhase at inPhase
      simpa only [read, fetched, if_true] using inPhase
    cases ack with
    | true =>
      by_cases more : allowsBytes bd.snap.limit (q.count + 1)
      · rw [takeHostAck_of_more read shown bound owned more]
        refine h.keep_owned owned owned [.ackBit true, .readByte] rfl [] rfl (fun l inPhase => ?_)
          (sameRest_of_eq rfl rfl rfl rfl)
        rw [done l inPhase]
        unfold askedInPhase
        simp only [read]
        exact .inr rfl
      · rw [takeHostAck_of_last read shown bound owned more]
        exact h.releases owned rfl [.ackBit false] (by simp [asked]) (fun l inPhase => by rw [done l inPhase]; decide)
          (sameRest_of_eq rfl rfl rfl rfl)
    | false =>
      rw [takeHostAck_of_nack read shown bound owned]
      refine h.keep_owned owned owned [.ackBit false] rfl [] rfl (fun l inPhase => ?_) (sameRest_of_eq rfl rfl rfl rfl)
      rw [done l inPhase]
      exact .inr rfl
  · rw [takeHostAck_of_untimely (by simpa only [not_and_or, Bool.not_eq_true] using timely)]
    exact h

/-! ### The hold expiry and the cancellation (R66, R72) -/

theorem takeHoldExpiry_linked (h : q.Linked s p) (ok : PortOk q) : q.takeHoldExpiry.Linked s p := by
  rw [takeHoldExpiry_eq]
  cases link : q.link with
  | none =>
    exact h.keep_unlinked link rfl (by simp [leaveSent]) (sameRest_of_eq rfl rfl rfl rfl) fun _ _ => rfl
  | queued g => exact h.withdrawn link rfl rfl (sameRest_of_eq rfl rfl rfl rfl)
  | owned g =>
    exact h.releases link rfl [] (by simp [asked, leaveSent]) (fun l inPhase => askedInPhase_length ok link inPhase)
      (sameRest_of_eq rfl rfl rfl rfl)

/-- The context cancelled by the other port's RESTART, whose second step ends the ownership that is left (R72, R127). -/
theorem cancelContext_linked (h : q.Linked s p) (ok : PortOk q) (cancels : s.restartCancels p) :
    q.cancelContext.Linked s p := by
  rw [cancelContext_eq]
  cases link : q.link with
  | none =>
    exact h.keep_unlinked link rfl (by simp [withdrawalSent]) (sameRest_of_eq rfl rfl rfl rfl) fun _ _ => rfl
  | queued g => exact h.withdrawn link rfl rfl (sameRest_of_eq rfl rfl rfl rfl)
  | owned g =>
    obtain ⟨mine, standing⟩ := h.owned g link
    have asks : allAsks q.toSegments := fun m member => (mine m member).2
    refine ⟨fun _ => ?_, fun k queued => ?_, fun k owned => ?_, ?_, fun k owner _ => ?_, h.waits⟩
    · rcases standing with away | ⟨owner, -⟩
      · exact ⟨_, away, .inl (by simpa only [withdrawalSent, List.append_nil] using givesUp_of_allAsks asks)⟩
      · exact ⟨_, owner, .inr ⟨cancels, rfl, ⟨g, rfl⟩, by simpa only [withdrawalSent, List.append_nil] using asks⟩⟩
    · cases queued
    · cases owned
    · simp only [withdrawalSent, List.append_nil]
      exact h.numbers
    · simp only [leadingAsks_eq, withdrawalSent, List.append_nil]
      rcases standing with away | ⟨stands, -, inPhase⟩
      · exact absurd (State.standing_of_owner away owner) (by simp)
      · obtain rfl := Standing.owner.inj (State.standing_of_owner stands owner)
        have bound := askedInPhase_length ok link inPhase
        rw [outstandingAt, leadingAsks_eq] at bound
        simp only [List.length_append, List.length_map] at bound
        omega

theorem takeCancellation_linked (h : q.Linked s p) (ok : PortOk q) (cancels : s.restartCancels p) :
    q.takeCancellation.Linked s p := by
  by_cases outside : q.phase = .idle ∨ q.phase = .unaddressed
  · rw [takeCancellation_of_outside outside]
    exact h
  · obtain ⟨notIdle, addressed⟩ := not_or.mp outside
    rw [takeCancellation_of_inside notIdle addressed]
    exact cancelContext_linked h ok cancels

/-! ### Messages of the segments (R54, R55, R75 to R78, R85 to R88) -/

/-- Taking the first message of a segment takes it from those of the segment. -/
theorem fromSegment_of_first {m : PortMsg} {rest : List (SegIx × PortMsg)} (first : firstMessage q g m rest) (k : SegIx) :
    q.fromSegment k = (if k = g then [m] else []) ++ ({ q with fromSegments := rest } : PortCtl).fromSegment k := by
  obtain ⟨before, after, underWay, others, rfl⟩ := first
  have none : (before.filter fun e => e.1 = g) = [] := by
    rw [List.filter_eq_nil_iff]
    exact fun e member => by simpa using others e member
  by_cases same : k = g
  · subst same
    simp [fromSegment, underWay, List.filter_append, none]
  · simp [fromSegment, underWay, List.filter_append, same, Ne.symm same]

theorem sameRest_of_first {m : PortMsg} {rest : List (SegIx × PortMsg)} (first : firstMessage q g m rest) :
    q.SameRest { q with fromSegments := rest } := by
  obtain ⟨before, after, underWay, -, rfl⟩ := first
  refine ⟨fun e member => ?_, rfl, rfl, rfl⟩
  rw [underWay]
  simp only [List.mem_append, List.mem_cons] at member ⊢
  tauto

theorem mem_of_first {m : PortMsg} {rest : List (SegIx × PortMsg)} (first : firstMessage q g m rest) :
    (g, m) ∈ q.fromSegments := by
  obtain ⟨before, after, underWay, -, -⟩ := first
  rw [underWay]
  exact List.mem_append_right _ List.mem_cons_self

/-- A list split at one element is split at another too when a third is taken out. -/
theorem split_without {α : Type} {before after b a : List α} {x y : α} (same : before ++ x :: after = b ++ y :: a) (other : x ≠ y) :
    ∃ b' a', before ++ after = b' ++ y :: a' ∧ (∀ z ∈ b' ++ a', z ∈ b ++ a) ∧ ∀ z ∈ a', z ∈ a := by
  rcases List.append_eq_append_iff.mp same with ⟨c, rfl, tail⟩ | ⟨c, rfl, tail⟩
  · cases c with
    | nil => exact absurd (List.cons.inj tail).1 other
    | cons z c =>
      obtain ⟨rfl, rfl⟩ := List.cons.inj tail
      refine ⟨before ++ c, a, by simp, fun z member => ?_, fun z member => member⟩
      simp only [List.mem_append, List.mem_cons] at member ⊢
      tauto
  · cases c with
    | nil => exact absurd (List.cons.inj tail).1.symm other
    | cons z c =>
      obtain ⟨rfl, rfl⟩ := List.cons.inj tail
      refine ⟨b, c ++ after, by simp, fun z member => ?_, fun z member => ?_⟩
      · simp only [List.append_eq, List.mem_append, List.mem_cons] at member ⊢
        tauto
      · simp only [List.append_eq, List.mem_append, List.mem_cons] at member ⊢
        tauto

/-- A request stands as it is when a message that does not answer it is taken. -/
theorem requested_of_first {m : PortMsg} {k : SegIx} {rest : List (SegIx × PortMsg)} (requested : q.requested s p k)
    (first : firstMessage q g m rest) (notGrant : (g, m) ≠ (k, .grant q.requests))
    (notRefusal : (g, m) ≠ (k, .refusal q.requests)) :
    ({ q with fromSegments := rest } : PortCtl).requested s p k := by
  obtain ⟨fewer, -, -, -⟩ := sameRest_of_first first
  have unanswered : q.unanswered → ({ q with fromSegments := rest } : PortCtl).unanswered := fun none e member =>
    none e (fewer e member)
  rcases requested with ⟨w, before, stands, sent, gives, none, others, tickets⟩ | ⟨empty, stands, ticket, none⟩ |
    ⟨empty, before, after, granted, others, kinds, stands⟩ | ⟨empty, stands, refused⟩
  · exact .inl ⟨w, before, stands, sent, gives, unanswered none, others, tickets⟩
  · exact .inr (.inl ⟨empty, stands, ticket, unanswered none⟩)
  · obtain ⟨b, a, underWay, -, rfl⟩ := first
    obtain ⟨b', a', split, inside, later⟩ := split_without (underWay.symm.trans granted) notGrant
    exact .inr (.inr (.inl ⟨empty, b', a', split, fun e member => others e (inside e member),
      fun e member => kinds e (later e member),
      stands.imp id fun ⟨owner, idle, live⟩ => ⟨owner, idle, fun e member => live e (later e member)⟩⟩))
  · obtain ⟨b, a, underWay, -, rfl⟩ := first
    refine .inr (.inr (.inr ⟨empty, stands, ?_⟩))
    rw [underWay] at refused
    simp only [List.mem_append, List.mem_cons] at refused ⊢
    exact refused.imp id fun e => e.resolve_left fun same => notRefusal same.symm

/-- A message taken with no effect on the context (R67, R75, R104). -/
theorem dropped_linked {m : PortMsg} {rest : List (SegIx × PortMsg)} (h : q.Linked s p) (first : firstMessage q g m rest)
    (other : ∀ k, q.link = .queued k → (g, m) ≠ (k, .grant q.requests) ∧ (g, m) ≠ (k, .refusal q.requests))
    (phase : q.link = .owned g → ∀ l, askedInPhase q (m.kind?.toList ++ l) → askedInPhase q l) :
    ({ q with fromSegments := rest } : PortCtl).Linked s p := by
  have same := sameRest_of_first first
  rcases link_cases q with link | ⟨k, link⟩ | ⟨k, link⟩
  · exact h.keep_unlinked link link rfl same fun _ idle => idle
  · obtain ⟨notGrant, notRefusal⟩ := other k link
    refine ⟨fun none => ?_, fun j queued => ?_, fun j owned => ?_, h.numbers_of_same same fun _ _ member => member,
      fun j owner o => h.given j owner o, h.waits⟩
    · cases link.symm.trans none
    · obtain rfl := Link.queued.inj (link.symm.trans queued)
      obtain ⟨routed, requested⟩ := h.queued k link
      exact ⟨routed, requested_of_first requested first notGrant notRefusal⟩
    · cases link.symm.trans owned
  · refine h.keep_owned link link [] (by simp [asked]) _ (fromSegment_of_first first k) (fun l inPhase => ?_) same
    rw [List.map_nil, List.append_nil]
    by_cases mine : k = g
    · subst mine
      refine phase link l ?_
      rw [if_pos rfl] at inPhase
      cases kind : m.kind? <;> simpa [kind] using inPhase
    · rwa [if_neg mine] at inPhase

end PortCtl

end Sys2Proof.Machine
end

section
/-! SUPPORT. What a message of a segment, taken at a port, keeps of the port's link (R54, R55, R75 to R78, R85 to R88). -/

namespace Sys2Proof.Machine

namespace PortCtl

variable {q r : PortCtl} {s : State} {p : Port} {g : SegIx} {rest : List (SegIx × PortMsg)}

theorem first_eq {m : PortMsg} (first : firstMessage q g m rest) :
    q.fromSegment g = [m] ++ ({ q with fromSegments := rest } : PortCtl).fromSegment g := by
  rw [fromSegment_of_first first g, if_pos rfl]

/-! ### Grants and refusals -/

namespace Linked

/-- The grant of the latest request taken: the port owns the segment, or its ownership has ended already (R54). -/
theorem granted (h : q.Linked s p) (link : q.link = .queued g) (first : firstMessage q g (.grant q.requests) rest)
    (link' : r.link = .owned g) (proxy : r.phase = .proxy) {w : Width} {a : Addr} {d : Direction}
    (out : r.toSegments = q.toSegments ++ [(g, .ask (.address w a d))]) (messages : r.fromSegments = rest)
    (same : q.SameRest r) : r.Linked s p := by
  have underWay := mem_of_first first
  obtain ⟨empty, standing⟩ : q.toSegments = [] ∧ (s.stands p .away ∨ (s.stands p (.owner g) ∧ (s.seg g).asks = [] ∧
      ∀ m ∈ r.fromSegment g, m.isEnding = false ∧ m.kind? = none)) := by
    obtain ⟨-, ⟨w, before, -, -, -, none, -⟩ | ⟨-, -, -, none⟩ | ⟨empty, before, after, granted, others, kinds, stands⟩ |
      ⟨empty, away, -⟩⟩ := h.queued g link
    · exact absurd rfl (none _ underWay)
    · exact absurd rfl (none _ underWay)
    · refine ⟨empty, stands.imp id fun ⟨owner, idle, live⟩ => ⟨owner, idle, fun m member => ?_⟩⟩
      obtain ⟨b, a, underWay, notMine, rfl⟩ := first
      have notBefore : (g, PortMsg.grant q.requests) ∉ before := fun member =>
        others _ (List.mem_append_left _ member) rfl
      have notAfter : (g, PortMsg.grant q.requests) ∉ after := fun member =>
        others _ (List.mem_append_right _ member) rfl
      obtain ⟨rfl, -, rfl⟩ := (List.append_cons_inj_of_notMem notBefore notAfter).mp (granted.symm.trans underWay)
      obtain ⟨e, taken, rfl⟩ := List.mem_map.mp member
      obtain ⟨inside, mine⟩ := List.mem_filter.mp taken
      have mine : e.1 = g := by simpa using mine
      rw [messages] at inside
      have later := (List.mem_append.mp inside).resolve_left fun early => notMine e early mine
      exact ⟨live e later mine, kinds e later mine⟩
    · exact ⟨empty, .inl away⟩
  have asks : r.toSegments = [(g, .ask (.address w a d))] := by rw [out, empty, List.nil_append]
  refine ⟨fun none => ?_, fun k queued => ?_, fun k owned => ⟨fun m member => ?_, ?_⟩,
    h.numbers_of_same same fun k n member => ?_, fun k owner other => ?_, h.waits_of_same same⟩
  · cases link'.symm.trans none
  · cases link'.symm.trans queued
  · obtain rfl := Link.owned.inj (link'.symm.trans owned)
    rw [asks] at member
    rw [List.mem_singleton.mp member]
    exact ⟨rfl, rfl⟩
  · obtain rfl := Link.owned.inj (link'.symm.trans owned)
    refine standing.imp id fun ⟨owner, idle, live⟩ => ⟨owner, fun m member => (live m member).1, ?_⟩
    have none : (r.fromSegment g).filterMap PortMsg.kind? = [] :=
      List.filterMap_eq_nil_iff.mpr fun m member => (live m member).2
    rw [outstandingAt, none, idle, leadingAsks_eq, asks, leading_ask]
    unfold askedInPhase
    rw [proxy]
    exact ⟨[], .inl rfl, rfl⟩
  · rw [asks] at member
    cases List.mem_singleton.mp member
  · rcases standing with away | ⟨stands, -⟩
    · exact absurd (State.standing_of_owner away owner) (by simp)
    · have here := Standing.owner.inj (State.standing_of_owner stands owner)
      exact absurd link' (by rw [here]; exact other)

/-- The refusal of the latest request taken (R55). -/
theorem refused (h : q.Linked s p) (link : q.link = .queued g) (underWay : (g, PortMsg.refusal q.requests) ∈ q.fromSegments)
    (link' : r.link = .none) (out : r.toSegments = q.toSegments) (same : q.SameRest r) : r.Linked s p := by
  obtain ⟨empty, away⟩ : q.toSegments = [] ∧ s.stands p .away := by
    obtain ⟨-, ⟨w, before, -, -, -, none, -⟩ | ⟨-, -, -, none⟩ | ⟨-, before, after, granted, others, -⟩ |
      ⟨empty, away, -⟩⟩ := h.queued g link
    · exact absurd rfl (none _ underWay)
    · exact absurd rfl (none _ underWay)
    · refine absurd rfl (others (g, .refusal q.requests) ?_)
      rw [granted] at underWay
      simpa using underWay
    · exact ⟨empty, away⟩
  refine ⟨fun _ => ⟨_, away, .inl ?_⟩, fun k queued => ?_, fun k owned => ?_, h.numbers_of_same same fun k n member => ?_,
    fun k owner _ => ?_, h.waits_of_same same⟩
  · rw [out, empty]
    exact trivial
  · cases link'.symm.trans queued
  · cases link'.symm.trans owned
  · rwa [out] at member
  · exact absurd (State.standing_of_owner away owner) (by simp)

end Linked

theorem takeGrant_linked (h : q.Linked s p) (ok : PortOk q) {n : Nat} (first : firstMessage q g (.grant n) rest) :
    (({ q with fromSegments := rest } : PortCtl).takeGrant g n).Linked s p := by
  have same := sameRest_of_first first
  by_cases acts : q.link = .queued g ∧ n = q.requests
  · obtain ⟨link, rfl⟩ := acts
    have waiting := ok.queued.mpr ⟨g, link⟩
    obtain ⟨⟨b, k, w, a, bound, dest⟩, -⟩ := h.queued g link
    obtain ⟨d, direction⟩ := Option.isSome_iff_exists.mp (ok.direction (.inl waiting))
    rw [takeGrant_of_latest (q := { q with fromSegments := rest }) waiting link rfl bound direction dest]
    exact h.granted link first rfl rfl rfl rfl ⟨same.fromSegments, rfl, rfl, rfl⟩
  · rw [takeGrant_of_other (q := { q with fromSegments := rest }) (.inr (not_and_or.mp acts))]
    refine dropped_linked h first (fun k link => ⟨fun e => acts ?_, fun e => PortMsg.noConfusion (Prod.mk.inj e).2⟩)
      fun _ l inPhase => inPhase
    obtain ⟨rfl, latest⟩ := Prod.mk.inj e
    exact ⟨link, PortMsg.grant.inj latest⟩

theorem takeRefusal_linked (h : q.Linked s p) (ok : PortOk q) {n : Nat} (first : firstMessage q g (.refusal n) rest) :
    (({ q with fromSegments := rest } : PortCtl).takeRefusal g n).Linked s p := by
  have same := sameRest_of_first first
  by_cases acts : q.link = .queued g ∧ n = q.requests
  · obtain ⟨link, rfl⟩ := acts
    rw [takeRefusal_of_latest (q := { q with fromSegments := rest }) (ok.queued.mpr ⟨g, link⟩) link rfl]
    refine h.refused link (mem_of_first first) rfl ?_ ⟨same.fromSegments, rfl, rfl, rfl⟩
    simp [ended, link, releaseSent]
  · rw [takeRefusal_of_other (q := { q with fromSegments := rest }) (.inr (not_and_or.mp acts))]
    refine dropped_linked h first (fun k link => ⟨fun e => PortMsg.noConfusion (Prod.mk.inj e).2, fun e => acts ?_⟩)
      fun _ l inPhase => inPhase
    obtain ⟨rfl, latest⟩ := Prod.mk.inj e
    exact ⟨link, PortMsg.refusal.inj latest⟩

/-! ### Results -/

/-- The first result outstanding in PROXY is that of the ADDRESS only when nothing else is outstanding. -/
theorem proxy_address {l : List AskKind} (proxy : q.phase = .proxy) (inPhase : askedInPhase q ([.address] ++ l)) : l = [] := by
  unfold askedInPhase at inPhase
  rw [proxy] at inPhase
  obtain ⟨before, carried, asks⟩ := inPhase
  rcases carried with rfl | rfl | rfl | rfl
  · simpa using asks
  · simp at asks
  · simp at asks
  · simp at asks

theorem not_address_of_other (ok : PortOk q) (owned : q.link = .owned g) (other : q.phase ≠ .proxy) (l : List AskKind) :
    ¬ askedInPhase q ([.address] ++ l) := by
  have phases := ok.unlinked ⟨g, owned⟩
  unfold askedInPhase carriedAsks
  cases phase : q.phase <;> simp [phase, Phase.ownsSegment, Phase.receivesAddress] at phases other ⊢
  split <;> simp

theorem not_writeByte_of_other (ok : PortOk q) (owned : q.link = .owned g) (other : q.phase ≠ .write) (l : List AskKind) :
    ¬ askedInPhase q ([.writeByte] ++ l) := by
  have phases := ok.unlinked ⟨g, owned⟩
  unfold askedInPhase carriedAsks
  cases phase : q.phase <;> simp [phase, Phase.ownsSegment, Phase.receivesAddress] at phases other ⊢

/-- The first of the asks carried into an address phase answered, the rest are carried still. -/
theorem carriedAsks_tail {k : AskKind} {l : List AskKind} (carried : carriedAsks ([k] ++ l)) : carriedAsks l := by
  rw [List.singleton_append] at carried
  rcases carried with none | one | one | two
  · cases none
  · exact .inl (List.cons.inj one).2
  · exact .inl (List.cons.inj one).2
  · exact .inr (.inl (List.cons.inj two).2)

theorem carriedAsks_proxy_tail {k : AskKind} (other : k ≠ .address) {l before : List AskKind} (carried : carriedAsks before)
    (asks : [k] ++ l = before ++ [.address]) : ∃ before, carriedAsks before ∧ l = before ++ [.address] := by
  cases before with
  | nil => exact absurd (List.cons.inj asks).1 other
  | cons k' before => exact ⟨before, carriedAsks_tail carried, (List.cons.inj asks).2⟩

/-- A READ_BYTE outstanding outside READ is one that a carried read has left (R75). -/
theorem askedInPhase_of_readByte (ok : PortOk q) (owned : q.link = .owned g) (other : q.phase ≠ .read) {l : List AskKind}
    (inPhase : askedInPhase q ([.readByte] ++ l)) : askedInPhase q l := by
  have phases := ok.unlinked ⟨g, owned⟩
  unfold askedInPhase at inPhase ⊢
  cases phase : q.phase <;>
    simp only [phase, Phase.ownsSegment, Phase.receivesAddress, Bool.false_eq_true, or_self, ne_eq,
      not_true_eq_false] at phases other inPhase ⊢
  case address | tenLow => exact carriedAsks_tail inPhase
  case proxy =>
    obtain ⟨before, carried, asks⟩ := inPhase
    exact carriedAsks_proxy_tail AskKind.noConfusion carried asks
  case write => split at inPhase <;> cases inPhase
  case ending =>
    rcases inPhase with none | one
    · cases none
    · cases (List.cons.inj one).1

/-- An ACK_BIT outstanding may end with no effect on the context (R75). -/
theorem askedInPhase_of_ackBit (ok : PortOk q) (owned : q.link = .owned g) {l : List AskKind}
    (inPhase : askedInPhase q ([.ackBit] ++ l)) : askedInPhase q l := by
  have phases := ok.unlinked ⟨g, owned⟩
  unfold askedInPhase at inPhase ⊢
  cases phase : q.phase <;>
    simp only [phase, Phase.ownsSegment, Phase.receivesAddress, Bool.false_eq_true, or_self] at phases inPhase ⊢
  case address | tenLow => exact carriedAsks_tail inPhase
  case proxy =>
    obtain ⟨before, carried, asks⟩ := inPhase
    exact carriedAsks_proxy_tail AskKind.noConfusion carried asks
  case write => split at inPhase <;> cases inPhase
  case read =>
    split at inPhase
    · cases inPhase
    · rw [if_neg ‹_›]
      rcases inPhase with one | two
      · cases one
      · exact .inl (List.cons.inj two).2
  case ending =>
    rcases inPhase with none | one
    · cases none
    · exact .inl (List.cons.inj one).2

/-- A message that answers no request does not touch one. -/
theorem other_of_numberless {m : PortMsg} (numberless : m.number? = none) :
    ∀ k, q.link = .queued k → (g, m) ≠ (k, .grant q.requests) ∧ (g, m) ≠ (k, .refusal q.requests) := by
  intro k _
  constructor <;> intro e <;> obtain ⟨-, rfl⟩ := Prod.mk.inj e <;> cases numberless

theorem takeAddressAck_linked (h : q.Linked s p) (ok : PortOk q) (first : firstMessage q g (.addressResult true) rest) :
    (({ q with fromSegments := rest } : PortCtl).takeAddressAck g).Linked s p := by
  have same := sameRest_of_first first
  by_cases acts : q.phase = .proxy ∧ q.link = .owned g
  · obtain ⟨proxy, link⟩ := acts
    obtain ⟨b, bound⟩ := Option.isSome_iff_exists.mp (ok.bound (by rw [proxy]; rfl))
    obtain ⟨d, direction⟩ := Option.isSome_iff_exists.mp (ok.direction (.inr proxy))
    cases d with
    | write =>
      rw [takeAddressAck_of_write (q := { q with fromSegments := rest }) proxy link bound direction]
      refine h.keep_owned link link [] (by simp [asked]) _ (first_eq first) (fun l inPhase => ?_)
        ⟨same.fromSegments, rfl, rfl, rfl⟩
      rw [proxy_address proxy inPhase]
      rfl
    | read =>
      rw [takeAddressAck_of_read (q := { q with fromSegments := rest }) proxy link bound direction]
      refine h.keep_owned link link [.readByte] rfl _ (first_eq first) (fun l inPhase => ?_)
        ⟨same.fromSegments, rfl, rfl, rfl⟩
      rw [proxy_address proxy inPhase]
      exact .inl rfl
  · rw [takeAddressAck, if_neg acts]
    refine dropped_linked h first (other_of_numberless rfl) fun link l inPhase => ?_
    exact absurd inPhase (not_address_of_other ok link (fun proxy => acts ⟨proxy, link⟩) l)

theorem takeAddressNack_linked (h : q.Linked s p) (ok : PortOk q) (first : firstMessage q g (.addressResult false) rest) :
    (({ q with fromSegments := rest } : PortCtl).takeAddressNack g).Linked s p := by
  have same := sameRest_of_first first
  by_cases acts : q.phase = .proxy ∧ q.link = .owned g
  · obtain ⟨proxy, link⟩ := acts
    obtain ⟨b, bound⟩ := Option.isSome_iff_exists.mp (ok.bound (by rw [proxy]; rfl))
    rw [takeAddressNack_of_owned (q := { q with fromSegments := rest }) proxy link bound]
    exact h.releases link rfl [] (by simp [asked, ended, link, releaseSent])
      (fun l inPhase => askedInPhase_length ok link inPhase) ⟨same.fromSegments, rfl, rfl, rfl⟩
  · rw [takeAddressNack, if_neg acts]
    refine dropped_linked h first (other_of_numberless rfl) fun link l inPhase => ?_
    exact absurd inPhase (not_address_of_other ok link (fun proxy => acts ⟨proxy, link⟩) l)

theorem takeWriteResult_linked (h : q.Linked s p) (ok : PortOk q) {ack : Bool}
    (first : firstMessage q g (.writeResult ack) rest) :
    (({ q with fromSegments := rest } : PortCtl).takeWriteResult g ack).Linked s p := by
  have same := sameRest_of_first first
  by_cases acts : q.phase = .write ∧ q.link = .owned g
  · obtain ⟨write, link⟩ := acts
    cases ack with
    | true =>
      rw [takeWriteResult_of_ack (q := { q with fromSegments := rest }) write link]
      refine h.keep_owned link link [] (by simp [asked]) _ (first_eq first) (fun l inPhase => ?_)
        ⟨same.fromSegments, rfl, rfl, rfl⟩
      unfold askedInPhase at inPhase ⊢
      simp only [write] at inPhase ⊢
      split at inPhase
      · simpa [PortMsg.kind?] using inPhase
      · cases inPhase
    | false =>
      rw [takeWriteResult_of_nack (q := { q with fromSegments := rest }) write link]
      exact h.releases link rfl [] (by simp [asked, ended, link, releaseSent])
        (fun l inPhase => askedInPhase_length ok link inPhase) ⟨same.fromSegments, rfl, rfl, rfl⟩
  · rw [takeWriteResult, if_neg acts]
    refine dropped_linked h first (other_of_numberless rfl) fun link l inPhase => ?_
    exact absurd inPhase (not_writeByte_of_other ok link (fun write => acts ⟨write, link⟩) l)

theorem takeReadResult_linked (h : q.Linked s p) (ok : PortOk q) {b : Byte}
    (first : firstMessage q g (.readResult b) rest) :
    (({ q with fromSegments := rest } : PortCtl).takeReadResult g b).Linked s p := by
  have same := sameRest_of_first first
  by_cases acts : q.phase = .read ∧ q.link = .owned g
  · obtain ⟨read, link⟩ := acts
    have done : ∀ {r : PortCtl}, r.phase = .read → r.fetched.isSome = true → ∀ l,
        askedInPhase q ([.readByte] ++ l) → askedInPhase r (l ++ [].map Primitive.kind) := fun {r} phase fetched l inPhase => by
      unfold askedInPhase at inPhase ⊢
      simp only [read, phase, fetched, if_true, List.map_nil, List.append_nil] at inPhase ⊢
      split at inPhase
      · cases inPhase
      · simpa [PortMsg.kind?] using inPhase
    rcases Option.eq_none_or_eq_some q.hold with held | ⟨t, held⟩
    case inr =>
      rw [takeReadResult_of_held (q := { q with fromSegments := rest }) read link held]
      exact h.keep_owned link link [] (by simp [asked]) _ (first_eq first) (done read rfl) ⟨same.fromSegments, rfl, rfl, rfl⟩
    case inl =>
      rw [takeReadResult_of_free (q := { q with fromSegments := rest }) read link held]
      exact h.keep_owned link link [] (by simp [asked]) _ (first_eq first) (done read rfl) ⟨same.fromSegments, rfl, rfl, rfl⟩
  · rw [takeReadResult, if_neg acts]
    exact dropped_linked h first (other_of_numberless rfl) fun link l inPhase =>
      askedInPhase_of_readByte ok link (fun read => acts ⟨read, link⟩) inPhase

theorem ackBitDone_linked (h : q.Linked s p) (ok : PortOk q) (first : firstMessage q g .ackBitDone rest) :
    ({ q with fromSegments := rest } : PortCtl).Linked s p :=
  dropped_linked h first (other_of_numberless rfl) fun link _ inPhase => askedInPhase_of_ackBit ok link inPhase

/-- A LOST, FAULT or CANCELLED taken: the ownership has ended before (R76). -/
theorem takeEnding_linked (h : q.Linked s p) (ok : PortOk q) {m : PortMsg} (ending : m.isEnding = true)
    (first : firstMessage q g m rest) : (({ q with fromSegments := rest } : PortCtl).takeEnding g).Linked s p := by
  have same := sameRest_of_first first
  have numberless : m.number? = none ∧ m.kind? = none := by cases m <;> simp [PortMsg.isEnding] at ending <;> exact ⟨rfl, rfl⟩
  by_cases link : q.link = .owned g
  · have away : s.stands p .away := by
      obtain ⟨-, away | ⟨-, live, -⟩⟩ := h.owned g link
      · exact away
      · have dead := live m (by rw [first_eq first]; exact List.mem_cons_self)
        rw [ending] at dead
        cases dead
    have phases := ok.unlinked ⟨g, link⟩
    by_cases proxy : q.phase = .proxy
    · rw [takeEnding_of_proxy (q := { q with fromSegments := rest }) link proxy]
      exact h.ended link away rfl (by simp [ended, releaseSent]) ⟨same.fromSegments, rfl, rfl, rfl⟩
    by_cases data : q.phase ∈ [Phase.write, .read, .ending]
    · rw [takeEnding_of_data (q := { q with fromSegments := rest }) link data]
      exact h.ended link away rfl (by simp [ended, releaseSent]) ⟨same.fromSegments, rfl, rfl, rfl⟩
    · have carried : q.phase = .address ∨ q.phase = .tenLow := by
        cases phase : q.phase <;> simp [phase, Phase.ownsSegment, Phase.receivesAddress] at phases proxy data ⊢
      rw [takeEnding_of_carried (q := { q with fromSegments := rest }) link carried]
      exact h.ended link away rfl rfl ⟨same.fromSegments, rfl, rfl, rfl⟩
  · rw [takeEnding, if_neg link]
    refine dropped_linked h first (other_of_numberless numberless.1) fun _ l inPhase => ?_
    simpa [numberless.2] using inPhase

end PortCtl

end Sys2Proof.Machine
end

section
/-! SUPPORT. What an event at a segment is for a port: nothing, the end of its standing, a grant, or a result (R76, R101 to
R104, R107). -/

namespace Sys2Proof.Machine

/-! ### Messages by port -/

/-- The messages among `sends` for port `r`. -/
def messagesFor (r : Port) (sends : List (Port × PortMsg)) : List PortMsg := (sends.filter fun m => m.1 = r).map fun m => m.2

theorem comingTo_eq (r : Port) (g : SegIx) (sends : List (Port × PortMsg)) :
    comingTo r g sends = (messagesFor r sends).map fun m => (g, m) := by
  rw [comingTo, messagesFor, List.map_map]
  rfl

theorem mem_messagesFor {r : Port} {m : PortMsg} {sends : List (Port × PortMsg)} :
    m ∈ messagesFor r sends ↔ (r, m) ∈ sends := by
  simp [messagesFor]

theorem messagesFor_append (r : Port) (a b : List (Port × PortMsg)) :
    messagesFor r (a ++ b) = messagesFor r a ++ messagesFor r b := by simp [messagesFor]

theorem messagesFor_eq_nil {r : Port} {sends : List (Port × PortMsg)} (none : ∀ m ∈ sends, m.1 ≠ r) :
    messagesFor r sends = [] := by
  rw [messagesFor, List.map_eq_nil_iff, List.filter_eq_nil_iff]
  exact fun m member same => none m member (of_decide_eq_true same)

theorem messagesFor_one (r : Port) (m : PortMsg) : messagesFor r [(r, m)] = [m] := by simp [messagesFor]

theorem isEnding_silent {m : PortMsg} (ending : m.isEnding = true) : m.number? = none ∧ m.kind? = none := by
  cases m <;> simp [PortMsg.isEnding] at ending <;> exact ⟨rfl, rfl⟩

theorem kind_silent {m : PortMsg} {k : AskKind} (kind : m.kind? = some k) : m.number? = none ∧ m.isEnding = false := by
  cases m <;> simp [PortMsg.kind?] at kind <;> exact ⟨rfl, rfl⟩

theorem mem_sentTo {o : Option Port} {n : PortMsg} {m : Port × PortMsg} (member : m ∈ sentTo o n) :
    o = some m.1 ∧ m.2 = n := by
  cases o with
  | none => cases member
  | some r =>
    obtain rfl := List.mem_singleton.mp member
    exact ⟨rfl, rfl⟩

/-! ### What a port sees of an event -/

/-- What the event `e` at a segment `x` is for port `r`. -/
inductive Sees (r : Port) (x : Segment) (e : SegStep) : Prop
  | stays (owner : e.seg.owner = some r ↔ x.owner = some r) (queue : e.seg.queue.count r = x.queue.count r)
      (asks : x.owner = some r → e.seg.asks = x.asks) (messages : messagesFor r e.sends = [])
  | leaves (away : e.seg.standings r = 0)
      (messages : ∀ m, (r, m) ∈ e.sends → m.isEnding = true ∨ (r ∈ x.queue ∧ m = .refusal (x.tickets.get r)))
      (refused : r ∈ x.queue → (r, .refusal (x.tickets.get r)) ∈ e.sends)
  | granted (queued : r ∈ x.queue) (owner : e.seg.owner = some r) (left : r ∉ e.seg.queue) (asks : e.seg.asks = [])
      (messages : messagesFor r e.sends = [.grant (x.tickets.get r)])
  | answered (owner : x.owner = some r) (owns : e.seg.owner = some r) (queue : e.seg.queue.count r = x.queue.count r)
      (a : Primitive) (asks : x.asks = a :: e.seg.asks) (m : PortMsg) (messages : messagesFor r e.sends = [m])
      (kind : m.kind? = some a.kind)

/-- The event `e` at a segment `x` is one of these for each port that stands with it once, and asks nothing more. -/
structure Linking (x : Segment) (e : SegStep) : Prop where
  sees : ∀ r, x.standings r ≤ 1 → Sees r x e
  tickets : e.seg.tickets = x.tickets
  few : e.seg.asks.length ≤ x.asks.length

namespace Segment

variable {x y : Segment} {e : SegStep} {r : Port}

theorem not_queued_of_owner (single : x.standings r ≤ 1) (owner : x.owner = some r) : r ∉ x.queue := fun queued => by
  have := List.count_pos_iff.mpr queued
  rw [standings, if_pos owner] at single
  omega

theorem count_le_one (single : x.standings r ≤ 1) : x.queue.count r ≤ 1 := by
  rw [standings] at single
  omega

theorem standings_eq_zero (owner : x.owner ≠ some r) (queue : r ∉ x.queue) : x.standings r = 0 :=
  (standings_eq_zero_iff x r).mpr ⟨owner, queue⟩

/-- An event that sends nothing and keeps the owner, the queue and the owner's asks. -/
theorem linking_keeps (owner : e.seg.owner = x.owner) (queue : e.seg.queue = x.queue) (tickets : e.seg.tickets = x.tickets)
    (asks : e.seg.asks = x.asks ∨ (x.owner = none ∧ e.seg.asks.length ≤ x.asks.length)) (quiet : e.sends = []) :
    Linking x e where
  sees r _ := .stays (by rw [owner]) (by rw [queue])
    (fun owned => asks.resolve_right fun unowned => by rw [unowned.1] at owned; cases owned) (by rw [quiet]; rfl)
  tickets := tickets
  few := asks.elim (fun same => le_of_eq (congrArg _ same)) fun few => few.2

/-- The owner, if there is one, is lost; the queue waits on. -/
theorem linking_lost (owner : e.seg.owner = none) (queue : e.seg.queue = x.queue) (tickets : e.seg.tickets = x.tickets)
    (few : e.seg.asks.length ≤ x.asks.length) (endings : ∀ m ∈ e.sends, x.owner = some m.1 ∧ m.2.isEnding = true) :
    Linking x e where
  sees r single := by
    by_cases owned : x.owner = some r
    · have unqueued := not_queued_of_owner single owned
      refine .leaves (standings_eq_zero (by simp [owner]) (by rwa [queue])) (fun m member => .inl (endings _ member).2)
        fun queued => absurd queued unqueued
    · exact .stays (by simp [owner, owned]) (by rw [queue]) (fun owns => absurd owns owned)
        (messagesFor_eq_nil fun m member same => owned (same ▸ (endings m member).1))
  tickets := tickets
  few := few

/-- The owner, if there is one, is lost and the queue refused (R104, R118). -/
theorem linking_emptied (owner : e.seg.owner = none) (queue : e.seg.queue = []) (tickets : e.seg.tickets = x.tickets)
    (few : e.seg.asks.length ≤ x.asks.length) (front : List (Port × PortMsg)) (endings : ∀ m ∈ front, m.2.isEnding = true)
    (sends : e.sends = front ++ refusalsOf x) : Linking x e where
  sees r _ := by
    refine .leaves (standings_eq_zero (by simp [owner]) (by simp [queue])) (fun m member => ?_) fun queued => ?_
    · rw [sends] at member
      refine (List.mem_append.mp member).imp (endings _) fun refusal => ?_
      obtain ⟨p, queued, same⟩ := List.mem_map.mp refusal
      cases same
      exact ⟨queued, rfl⟩
    · rw [sends]
      exact List.mem_append_right _ (List.mem_map_of_mem queued)
  tickets := tickets
  few := few

/-- The segment comes to IDLE, where the head of its queue is granted (R102). -/
theorem linking_idle (seg : e.seg = idleOrGranted y) (queue : y.queue = x.queue) (tickets : y.tickets = x.tickets)
    (front : List (Port × PortMsg)) (endings : ∀ m ∈ front, x.owner = some m.1 ∧ m.2.isEnding = true)
    (sends : e.sends = front ++ grantOnIdle y) : Linking x e := by
  cases waiting : x.queue with
  | nil =>
    have idle : e.seg = { y with
        state := .idle, owner := none, asks := [], stage := .none, position := .none, pendingCancel := none } := by
      rw [seg, idleOrGranted, queue, waiting]
    have quiet : e.sends = front := by rw [sends, grantOnIdle, queue, waiting, List.append_nil]
    exact linking_lost (by rw [idle]) (by rw [idle]; exact queue) (by rw [idle]; exact tickets)
      (by rw [idle]; exact Nat.zero_le _) (by rw [quiet]; exact endings)
  | cons p rest =>
    have owned : e.seg = { y with
        state := .owned, owner := some p, queue := rest, asks := [], stage := .none, position := .none,
        pendingCancel := none, retries := 0 } := by rw [seg, idleOrGranted, queue, waiting]
    have grant : e.sends = front ++ [(p, .grant (x.tickets.get p))] := by rw [sends, grantOnIdle, queue, waiting, tickets]
    refine ⟨fun r single => ?_, by rw [owned]; exact tickets, by rw [owned]; exact Nat.zero_le _⟩
    have once := count_le_one single
    have noFront : x.owner ≠ some r → messagesFor r front = [] := fun other =>
      messagesFor_eq_nil fun m member same => other (same ▸ (endings m member).1)
    by_cases head : r = p
    · subst head
      have queued : r ∈ x.queue := by rw [waiting]; exact List.mem_cons_self
      have other : x.owner ≠ some r := fun owner => not_queued_of_owner single owner queued
      refine .granted queued (by rw [owned]) ?_ (by rw [owned]) ?_
      · rw [waiting, List.count_cons_self] at once
        have left : rest.count r = 0 := by omega
        rw [owned]
        exact List.count_eq_zero.mp left
      · rw [grant, messagesFor_append, noFront other, messagesFor_one, List.nil_append]
    · have notGrant : messagesFor r [(p, PortMsg.grant (x.tickets.get p))] = [] :=
        messagesFor_eq_nil fun m member same => head (by rw [← same, List.mem_singleton.mp member])
      by_cases owner : x.owner = some r
      · have unqueued := not_queued_of_owner single owner
        refine .leaves (standings_eq_zero ?_ ?_) (fun m member => ?_) fun queued => absurd queued unqueued
        · rw [owned]
          exact fun same => head (Option.some.inj same).symm
        · rw [owned]
          exact fun later => unqueued (by rw [waiting]; exact List.mem_cons_of_mem p later)
        · rw [grant] at member
          refine (List.mem_append.mp member).elim (fun front => .inl (endings _ front).2) fun granted => ?_
          exact absurd (Prod.mk.inj (List.mem_singleton.mp granted)).1 head
      · refine .stays ?_ ?_ (fun owns => absurd owns owner) ?_
        · rw [owned]
          exact iff_of_false (fun same => head (Option.some.inj same).symm) owner
        · rw [owned, waiting, List.count_cons_of_ne (Ne.symm head)]
        · rw [grant, messagesFor_append, noFront owner, notGrant, List.nil_append]

/-- The primitive in progress ends and its result goes to the owner (R107). -/
theorem linking_answered {o : Port} {a : Primitive} {m : PortMsg} (owner : x.owner = some o) (owns : e.seg.owner = some o)
    (queue : e.seg.queue = x.queue) (tickets : e.seg.tickets = x.tickets) (asks : x.asks = a :: e.seg.asks)
    (kind : m.kind? = some a.kind) (sends : e.sends = [(o, m)]) : Linking x e where
  sees r _ := by
    by_cases same : r = o
    · subst same
      exact .answered owner owns (by rw [queue]) a asks m (by rw [sends, messagesFor_one]) kind
    · refine .stays (by rw [owner, owns]) (by rw [queue]) (fun owned => absurd (Option.some.inj (owner.symm.trans owned)).symm same) ?_
      rw [sends]
      exact messagesFor_eq_nil fun m member other => same (by rw [← other, List.mem_singleton.mp member])
  tickets := tickets
  few := by rw [asks]; exact Nat.le_succ _

theorem linking_unchanged (x : Segment) : Linking x { seg := x } := linking_keeps rfl rfl rfl (.inl rfl) rfl

/-! ### The segment's functions -/

theorem owner_eq_none (ok : SegmentOk x) (other : x.state ≠ .owned) : x.owner = none := by
  rw [← Option.not_isSome_iff_eq_none]
  exact fun owned => other (ok.owner.mp owned)

theorem exists_owner (ok : SegmentOk x) (owned : x.state = .owned) : ∃ o, x.owner = some o :=
  Option.isSome_iff_exists.mp (ok.owner.mpr owned)

theorem refusalsOf_of_empty (empty : x.queue = []) : refusalsOf x = [] := by rw [refusalsOf, empty, List.map_nil]

theorem endings_sentTo {m : PortMsg} (ending : m.isEnding = true) (o : Option Port) :
    ∀ n ∈ sentTo o m, o = some n.1 ∧ n.2.isEnding = true := fun n member => by
  obtain ⟨owner, same⟩ := mem_sentTo member
  exact ⟨owner, by rw [same]; exact ending⟩

/-- A segment at rest without an owner comes to IDLE. -/
theorem linking_enterIdle (queue : y.queue = x.queue) (tickets : y.tickets = x.tickets) :
    Linking x y.enterIdle := by
  rw [enterIdle_eq]
  exact linking_idle rfl queue tickets [] (fun m member => by cases member) rfl

theorem linking_enterDisabled (ok : SegmentOk x) (closing : x.state = .closing) (queue : y.queue = x.queue)
    (tickets : y.tickets = x.tickets) : Linking x y.enterDisabled := by
  have empty := ok.queue (.inr (.inr (.inl closing)))
  rw [enterDisabled, cancellations_eq]
  exact linking_emptied rfl (queue.trans empty) tickets (Nat.zero_le _) _
    (fun m member => (endings_sentTo rfl _ m member).2) (by rw [refusalsOf_of_empty empty, List.append_nil])

theorem linking_loseBus {o : Port} (owner : x.owner = some o) (owns : y.owner = some o) (queue : y.queue = x.queue)
    (tickets : y.tickets = x.tickets) : Linking x y.loseBus := by
  rw [loseBus_of_owner owns]
  exact linking_idle rfl queue tickets [(o, .lost)]
    (fun m member => by rw [List.mem_singleton.mp member]; exact ⟨owner, rfl⟩) rfl

theorem linking_clearing (ok : SegmentOk x) (other : x.state ≠ .owned) : Linking x { seg := clearingFrom x } :=
  linking_keeps (owner_eq_none ok other).symm rfl rfl (.inr ⟨owner_eq_none ok other, Nat.zero_le _⟩) rfl

theorem linking_enterReleasing (ok : SegmentOk x) : Linking x x.enterReleasing := by
  obtain ⟨z, sends, released⟩ := exists_releasedBy x
  rw [enterReleasing_of_releasedBy ok released]
  obtain ⟨whileDriving, whileOpen, atNone⟩ := released
  by_cases driving : drives x
  · obtain ⟨rfl, rfl⟩ := whileDriving driving
    exact linking_lost rfl rfl rfl (List.length_take_le' 1 _) fun m member => by cases member
  by_cases position : x.position = .none
  · obtain ⟨rfl, rfl⟩ := atNone driving position
    exact linking_idle rfl rfl rfl [] (fun m member => by cases member) rfl
  · obtain ⟨rfl, rfl⟩ := whileOpen driving position
    exact linking_lost rfl rfl rfl (Nat.zero_le _) fun m member => by cases member

/-- Where the next of the asks `as` begins, the owner and the queue stay. -/
theorem beginsWith_kept (as : List Primitive) (x : Segment) : (beginsWith x as).owner = x.owner ∧
    (beginsWith x as).queue = x.queue ∧ (beginsWith x as).tickets = x.tickets ∧ (beginsWith x as).asks = as := by
  unfold beginsWith
  split <;> exact ⟨rfl, rfl, rfl, rfl⟩

/-- The end of a primitive, by the state of the segment (R107, R117, R118). -/
theorem linking_endPrimitive (ok : SegmentOk x) {a : Primitive} {rest : List Primitive} (asks : x.asks = a :: rest)
    {pos : Position} (isOpen : pos ≠ .none) {m : PortMsg} (kind : m.kind? = some a.kind) (stage : Stage) (position : Position)
    (driven d : List Drive) :
    Linking x (({ x with stage := stage, position := position, driven := driven } : Segment).endPrimitive pos m d) := by
  have live : x.state ∈ [SegState.owned, .releasing, .closing] := by
    have busy : x.asks ≠ [] := by simp [asks]
    cases state : x.state with
    | owned | releasing | closing => simp
    | idle | disabled | clearing | faulted => exact absurd (ok.rest (by simp [state])).1 busy
  rw [endPrimitive_of_driven live]
  simp only [List.mem_cons, List.not_mem_nil, or_false] at live
  rcases live with state | state | state
  · obtain ⟨o, owner⟩ := exists_owner ok state
    rw [endPrimitive_of_owned state owner]
    simp only [asks, List.tail_cons]
    obtain ⟨owns, queue, tickets, left⟩ := beginsWith_kept rest { x with position := pos, clockLow := none, driven := d }
    exact linking_answered owner (owns.trans owner) queue tickets (asks.trans (congrArg _ left.symm)) kind rfl
  · rw [endPrimitive_of_releasing state isOpen]
    exact linking_keeps rfl rfl rfl (.inr ⟨owner_eq_none ok (by simp [state]), Nat.zero_le _⟩) rfl
  · have empty := ok.queue (.inr (.inr (.inl state)))
    have unowned := owner_eq_none ok (by simp [state])
    rw [endPrimitive_of_closing state isOpen]
    exact linking_emptied unowned empty rfl (Nat.zero_le _) _
      (fun m member => (endings_sentTo rfl _ m member).2) (by rw [refusalsOf_of_empty empty, List.append_nil])

theorem linking_addressEnd (ok : SegmentOk x) (n : Nat) : Linking x (x.addressEnd n) := by
  have unchanged := linking_unchanged x
  unfold addressEnd
  split
  · rename_i w a d rest asks
    split
    · have ends : ∀ {pos : Position} (_ : pos ≠ .none) (ack : Bool) (e : List Drive), Linking x
          ((if x.stage = .waiting then x.makeStart else { x with driven := [] }).endPrimitive pos (.addressResult ack) e) :=
        fun isOpen ack e => by
          split
          · exact linking_endPrimitive ok asks isOpen rfl _ _ _ e
          · exact linking_endPrimitive ok asks isOpen rfl x.stage x.position [] e
      dsimp only
      split
      · exact ends (by cases d <;> decide) true _
      · exact ends (by decide) false _
    · exact unchanged
  all_goals exact unchanged

theorem linking_writeByteEnd (ok : SegmentOk x) (ack : Bool) : Linking x (x.writeByteEnd ack) := by
  unfold writeByteEnd
  split
  · rename_i asks
    split
    · exact linking_endPrimitive ok asks (by decide) rfl x.stage x.position x.driven _
    · exact linking_unchanged x
  all_goals exact linking_unchanged x

theorem linking_readByteEnd (ok : SegmentOk x) (b : Byte) : Linking x (x.readByteEnd b) := by
  unfold readByteEnd
  split
  · rename_i asks
    split
    · exact linking_endPrimitive ok asks (by decide) rfl x.stage x.position x.driven _
    · exact linking_unchanged x
  all_goals exact linking_unchanged x

theorem linking_ackBitEnd (ok : SegmentOk x) : Linking x x.ackBitEnd := by
  unfold ackBitEnd
  split
  · rename_i a _ asks
    split
    · exact linking_endPrimitive ok asks (by cases a <;> decide) rfl x.stage x.position x.driven _
    · exact linking_unchanged x
  all_goals exact linking_unchanged x

theorem linking_makeStart (x : Segment) : Linking x { seg := x.makeStart } := linking_keeps rfl rfl rfl (.inl rfl) rfl

theorem linking_tenBitRestart (x : Segment) (sent : List Drive) : Linking x { seg := x.tenBitRestart sent } := by
  unfold tenBitRestart
  split <;> exact linking_keeps rfl rfl rfl (.inl rfl) rfl

theorem linking_comeToRestart (x : Segment) : Linking x { seg := x.comeToRestart } := by
  unfold comeToRestart
  split
  · exact linking_tenBitRestart x _
  all_goals exact linking_unchanged x

theorem linking_stopEnd (ok : SegmentOk x) (now : Nat) : Linking x (x.stopEnd now) := by
  unfold stopEnd
  split
  · dsimp only
    split
    · exact linking_enterIdle rfl rfl
    · rename_i closing
      exact linking_enterDisabled ok closing rfl rfl
    all_goals exact linking_unchanged x
  · exact linking_unchanged x

theorem linking_arbitrationLossAddress (ok : SegmentOk x) (now : Nat) : Linking x (x.arbitrationLossAddress now) := by
  unfold arbitrationLossAddress
  split
  · rename_i owned _
    obtain ⟨o, owner⟩ := exists_owner ok owned
    split
    · dsimp only
      split
      · exact linking_keeps rfl rfl rfl (.inl rfl) rfl
      · exact linking_loseBus owner owner rfl rfl
    · exact linking_unchanged x
  · exact linking_unchanged x

theorem linking_arbitrationLoss (ok : SegmentOk x) (now : Nat) : Linking x (x.arbitrationLoss now) := by
  have lost : x.state = .owned → Linking x (if x.begun = true then ({ x with freeSince := now, driven := [] }).loseBus
      else { seg := x }) := fun owned => by
    obtain ⟨o, owner⟩ := exists_owner ok owned
    split
    · exact linking_loseBus owner owner rfl rfl
    · exact linking_unchanged x
  unfold arbitrationLoss
  dsimp only
  split
  · exact lost ‹_›
  · exact lost ‹_›
  · exact lost ‹_›
  · exact linking_enterIdle rfl rfl
  · rename_i closing
    exact linking_enterDisabled ok closing rfl rfl
  · exact linking_unchanged x

theorem linking_failAttempt (ok : SegmentOk x) (clearing : x.state = .clearing) (queue : y.queue = x.queue)
    (tickets : y.tickets = x.tickets) (owner : y.owner = x.owner) (asks : y.asks = x.asks) (g : SegIx) :
    Linking x (y.failAttempt g) := by
  have unowned := owner_eq_none ok (by simp [clearing])
  unfold failAttempt
  split
  · exact linking_keeps owner queue tickets (.inl asks) rfl
  · refine linking_emptied rfl rfl tickets (Nat.zero_le _) [] (fun m member => by cases member) ?_
    change y.queue.map _ = _
    rw [queue, tickets]
    rfl

theorem linking_clockLowExpiry (ok : SegmentOk x) (g : SegIx) : Linking x (x.clockLowExpiry g) := by
  unfold clockLowExpiry
  split
  · cases state : x.state with
    | owned =>
      rw [toOwner_eq]
      exact linking_lost rfl rfl rfl (Nat.zero_le _) (endings_sentTo rfl x.owner)
    | idle => exact linking_clearing ok (by simp [state])
    | releasing => exact linking_clearing ok (by simp [state])
    | clearing => exact linking_failAttempt ok state rfl rfl rfl rfl g
    | closing => exact linking_enterDisabled ok state rfl rfl
    | disabled | faulted => exact linking_unchanged x
  · exact linking_unchanged x

/-- What an event drives on the lines, and the notices it raises, are no part of what a port sees. -/
theorem linking_congr (h : Linking x e) {f : SegStep} (owner : f.seg.owner = e.seg.owner) (queue : f.seg.queue = e.seg.queue)
    (tickets : f.seg.tickets = e.seg.tickets) (asks : f.seg.asks = e.seg.asks) (sends : f.sends = e.sends) : Linking x f where
  sees r single := by
    have standings : f.seg.standings r = e.seg.standings r := by rw [standings, owner, queue, standings]
    cases h.sees r single with
    | stays owner' queue' asks' messages =>
      exact .stays (by rw [owner, owner']) (by rw [queue, queue']) (fun owns => asks.trans (asks' owns)) (by rw [sends, messages])
    | leaves away messages refused =>
      exact .leaves (standings.trans away) (fun m => by rw [sends]; exact messages m) fun queued => by
        rw [sends]
        exact refused queued
    | granted queued owner' left asks' messages =>
      exact .granted queued (owner.trans owner') (by rw [queue]; exact left) (asks.trans asks') (by rw [sends, messages])
    | answered owns owner' queue' a asks' m messages kind =>
      exact .answered owns (owner.trans owner') (by rw [queue, queue']) a (by rw [asks, asks']) m (by rw [sends, messages]) kind
  tickets := tickets.trans h.tickets
  few := (congrArg List.length asks).le.trans h.few

theorem linking_clearCheck (ok : SegmentOk x) (g : SegIx) (now : Nat) (scl sda : Bool) :
    Linking x (x.clearCheck g now scl sda) := by
  unfold clearCheck
  split
  · rename_i clearing
    dsimp only
    split
    · refine linking_congr (e := Segment.enterIdle _) ?_ rfl rfl rfl rfl rfl
      exact linking_enterIdle rfl rfl
    · refine linking_congr (e := Segment.failAttempt _ g) ?_ rfl rfl rfl rfl rfl
      exact linking_failAttempt (y := { x with dsclLow := !scl, dsdaLow := !sda }) ok clearing rfl rfl rfl rfl g
  all_goals exact linking_unchanged x

theorem linking_takeEnable (ok : SegmentOk x) : Linking x x.takeEnable := by
  unfold takeEnable
  split
  · exact linking_clearing ok (by simp [*])
  · exact linking_clearing ok (by simp [*])
  all_goals exact linking_unchanged x

theorem linking_takeRecover (ok : SegmentOk x) : Linking x x.takeRecover := by
  unfold takeRecover
  split
  · exact linking_clearing ok (by simp [*])
  all_goals exact linking_unchanged x

theorem linking_takeDisable (ok : SegmentOk x) : Linking x x.takeDisable := by
  have cancelled := fun (m : Port × PortMsg) member => (endings_sentTo (m := .cancelled) rfl x.owner m member).2
  have silent : ∀ m ∈ ([] : List (Port × PortMsg)), m.2.isEnding = true := fun m member => by cases member
  cases state : x.state with
  | owned =>
    by_cases driving : drives x
    · rw [takeDisable_of_driving state driving]
      exact linking_emptied rfl rfl rfl (List.length_take_le' 1 _) [] silent rfl
    by_cases position : x.position = .none
    · rw [takeDisable_of_closed ok state driving position]
      exact linking_emptied rfl rfl rfl (Nat.zero_le _) _ cancelled rfl
    · rw [takeDisable_of_open state driving position]
      exact linking_emptied rfl rfl rfl (Nat.zero_le _) _ cancelled rfl
  | idle =>
    have empty := ok.queue (.inr (.inl state))
    rw [takeDisable_of_idle ok state]
    exact linking_emptied rfl empty rfl (Nat.zero_le _) [] silent (refusalsOf_of_empty empty).symm
  | releasing =>
    have unowned := owner_eq_none ok (by simp [state])
    rw [takeDisable_of_releasing state]
    exact linking_emptied unowned rfl rfl le_rfl [] silent rfl
  | clearing =>
    rw [takeDisable_of_clearing state]
    exact linking_emptied rfl rfl rfl (Nat.zero_le _) [] silent rfl
  | faulted =>
    have empty := ok.queue (.inr (.inr (.inr state)))
    rw [takeDisable_of_faulted state]
    exact linking_emptied rfl empty rfl (Nat.zero_le _) [] silent (refusalsOf_of_empty empty).symm
  | closing =>
    rw [takeDisable_of_off (.inl state)]
    exact linking_unchanged x
  | disabled =>
    rw [takeDisable_of_off (.inr state)]
    exact linking_unchanged x

/-- After RESTART's second step a segment has neither owner nor queue (R127). -/
theorem linking_takeRestart (ok : SegmentOk x) :
    Linking x x.takeRestart ∧ ∀ r, x.takeRestart.seg.standings r = 0 := by
  have silent : ∀ m ∈ ([] : List (Port × PortMsg)), m.2.isEnding = true := fun m member => by cases member
  suffices emptied : x.takeRestart.seg.owner = none ∧ x.takeRestart.seg.queue = [] ∧
      x.takeRestart.seg.tickets = x.tickets ∧ x.takeRestart.seg.asks.length ≤ x.asks.length ∧
      ∃ front, (∀ m ∈ front, m.2.isEnding = true) ∧ x.takeRestart.sends = front ++ refusalsOf x by
    obtain ⟨owner, queue, tickets, few, front, endings, sends⟩ := emptied
    exact ⟨linking_emptied owner queue tickets few front endings sends,
      fun r => standings_eq_zero (by simp [owner]) (by simp [queue])⟩
  cases state : x.state with
  | owned =>
    obtain ⟨z, more, released⟩ := exists_releasedBy { x with queue := [] }
    rw [takeRestart_of_owned ok state released]
    have outcome : z.owner = none ∧ z.queue = [] ∧ z.tickets = x.tickets ∧ z.asks.length ≤ x.asks.length ∧ more = [] := by
      obtain ⟨whileDriving, whileOpen, atNone⟩ := released
      by_cases driving : drives { x with queue := [] }
      · obtain ⟨rfl, rfl⟩ := whileDriving driving
        exact ⟨rfl, rfl, rfl, List.length_take_le' 1 _, rfl⟩
      by_cases position : x.position = .none
      · obtain ⟨rfl, rfl⟩ := atNone driving position
        exact ⟨rfl, rfl, rfl, Nat.zero_le _, rfl⟩
      · obtain ⟨rfl, rfl⟩ := whileOpen driving position
        exact ⟨rfl, rfl, rfl, Nat.zero_le _, rfl⟩
    obtain ⟨owner, queue, tickets, few, rfl⟩ := outcome
    exact ⟨owner, queue, tickets, few, _, fun m member => (endings_sentTo rfl x.owner m member).2, List.append_nil _⟩
  | idle | releasing | clearing =>
    have unowned := owner_eq_none ok (by simp [state])
    rw [takeRestart_of_watching (by simp [state])]
    exact ⟨unowned, rfl, rfl, le_rfl, [], silent, rfl⟩
  | closing | disabled | faulted =>
    have empty := ok.queue (by simp [state])
    rw [takeRestart_of_off (by simp [state])]
    exact ⟨owner_eq_none ok (by simp [state]), empty, rfl, le_rfl, [], silent, (refusalsOf_of_empty empty).symm⟩

end Segment

end Sys2Proof.Machine
end

section
/-! SUPPORT. What an event at a segment keeps of the link of a port that did not send the message taken (R76, R101 to R107). -/

namespace Sys2Proof.Machine

/-! ### Events in the whole state -/

/-- The segments and interpreters after the event `e` at segment `g`. -/
structure SegEvent (s t : State) (g : SegIx) (e : SegStep) : Prop where
  here : t.seg g = clocked s.now e.seg
  others : ∀ h, h ≠ g → t.seg h = s.seg h
  interps : ∀ p, t.interpOf p = s.interpOf p

/-- The controller with the messages `M` of segment `g` under way to it. -/
def PortCtl.received (q : PortCtl) (g : SegIx) (M : List PortMsg) : PortCtl :=
  { q with fromSegments := q.fromSegments ++ M.map fun m => (g, m) }

theorem State.onSegment_event (s : State) (g : SegIx) (e : SegStep) :
    SegEvent s (s.onSegment g e) g e ∧
      ∀ r, (s.onSegment g e).port r = (s.port r).received g (messagesFor r e.sends) := by
  have event := s.onSegment_eq g e
  obtain ⟨n, a, raised⟩ := State.raiseAll_only ((s.setSeg g (clocked s.now e.seg)).deliver g e.sends) e.raises
  obtain ⟨ps, delivered⟩ := State.deliver_only (s.setSeg g (clocked s.now e.seg)) g e.sends
  rw [event, raised]
  refine ⟨⟨?_, fun h other => ?_, fun p => ?_⟩, fun r => ?_⟩
  · rw [delivered]
    exact State.seg_setSeg_same s g _
  · rw [delivered]
    exact (State.seg_setSeg s g h _).trans (if_neg other)
  · rw [delivered]
    rfl
  · refine (State.port_deliver _ g e.sends r).trans ?_
    rw [comingTo_eq]
    rfl

namespace SegEvent

variable {s t : State} {g : SegIx} {e : SegStep}

theorem owner (event : SegEvent s t g e) : (t.seg g).owner = e.seg.owner := by rw [event.here]; rfl
theorem queue (event : SegEvent s t g e) : (t.seg g).queue = e.seg.queue := by rw [event.here]; rfl
theorem asks (event : SegEvent s t g e) : (t.seg g).asks = e.seg.asks := by rw [event.here]; rfl
theorem tickets (event : SegEvent s t g e) : (t.seg g).tickets = e.seg.tickets := by rw [event.here]; rfl

theorem standings (event : SegEvent s t g e) (p : Port) : (t.seg g).standings p = e.seg.standings p := by
  rw [Segment.standings, event.owner, event.queue, Segment.standings]

theorem restartCancels (event : SegEvent s t g e) (p : Port) : t.restartCancels p ↔ s.restartCancels p := by
  simp only [State.restartCancels, event.interps]

theorem restartRuns (event : SegEvent s t g e) (p : Port) : t.restartRuns p ↔ s.restartRuns p := by
  simp only [State.restartRuns, event.interps]

/-- The tickets of a port that the event does not replace. -/
theorem tickets_get (event : SegEvent s t g e) {p : Port} (kept : e.seg.tickets.get p = (s.seg g).tickets.get p) (h : SegIx) :
    (t.seg h).tickets.get p = (s.seg h).tickets.get p := by
  by_cases same : h = g
  · subst same
    rw [event.tickets, kept]
  · rw [event.others h same]

end SegEvent

/-! ### Standings under an event -/

variable {s t : State} {g : SegIx} {e : SegStep} {p : Port} {w : Standing}

theorem State.stands_congr (owner : ∀ h, (t.seg h).owner = some p ↔ (s.seg h).owner = some p)
    (queue : ∀ h, (t.seg h).queue.count p = (s.seg h).queue.count p) (stands : s.stands p w) : t.stands p w := by
  have standings : ∀ h, (t.seg h).standings p = (s.seg h).standings p := fun h => by
    simp only [Segment.standings, owner h, queue h]
  cases w with
  | away => exact fun h => (standings h).trans (stands h)
  | owner k =>
    obtain ⟨owns, one, others⟩ := stands
    exact ⟨(owner k).mpr owns, (standings k).trans one, fun h other => (standings h).trans (others h other)⟩
  | entry k =>
    obtain ⟨queued, one, others⟩ := stands
    have queued' : p ∈ (t.seg k).queue := by
      rw [← List.count_pos_iff, queue k]
      exact List.count_pos_iff.mpr queued
    exact ⟨queued', (standings k).trans one, fun h other => (standings h).trans (others h other)⟩

/-- A standing that the event at segment `g` leaves alone, with the segment empty of the port, or ends. -/
theorem SegEvent.stands_leaving (event : SegEvent s t g e) (away : e.seg.standings p = 0) (stands : s.stands p w) :
    (t.stands p w ∧ w ≠ .owner g ∧ w ≠ .entry g) ∨ (t.stands p .away ∧ (w = .owner g ∨ w = .entry g)) := by
  have here : (t.seg g).standings p = 0 := (event.standings p).trans away
  have elsewhere : ∀ {k}, (∀ h, h ≠ k → (s.seg h).standings p = 0) → ∀ h, h ≠ k → (t.seg h).standings p = 0 :=
    fun others h other => by
      by_cases same : h = g
      · rw [same, here]
      · rw [event.others h same, others h other]
  have everywhere : (∀ h, h ≠ g → (s.seg h).standings p = 0) → t.stands p .away := fun others h => by
    by_cases same : h = g
    · rw [same, here]
    · exact elsewhere others h same
  cases w with
  | away =>
    exact .inl ⟨everywhere fun h _ => stands h, Standing.noConfusion, Standing.noConfusion⟩
  | owner k =>
    obtain ⟨owns, one, others⟩ := stands
    by_cases same : k = g
    · subst same
      exact .inr ⟨everywhere others, .inl rfl⟩
    · refine .inl ⟨⟨?_, ?_, elsewhere others⟩, fun e => same (Standing.owner.inj e), Standing.noConfusion⟩
      · rw [event.others k same, owns]
      · rw [event.others k same, one]
  | entry k =>
    obtain ⟨queued, one, others⟩ := stands
    by_cases same : k = g
    · subst same
      exact .inr ⟨everywhere others, .inr rfl⟩
    · refine .inl ⟨⟨?_, ?_, elsewhere others⟩, Standing.noConfusion, fun e => same (Standing.entry.inj e)⟩
      · rw [event.others k same]
        exact queued
      · rw [event.others k same, one]

/-- A port comes to stand with segment `g` alone. -/
theorem SegEvent.stands_owner (event : SegEvent s t g e) (elsewhere : ∀ h, h ≠ g → (s.seg h).standings p = 0)
    (owner : e.seg.owner = some p) (left : p ∉ e.seg.queue) : t.stands p (.owner g) := by
  refine ⟨event.owner.trans owner, ?_, fun h other => ?_⟩
  · rw [event.standings, Segment.standings, if_pos owner, List.count_eq_zero.mpr left]
  · rw [event.others h other, elsewhere h other]

theorem SegEvent.stands_entry (event : SegEvent s t g e) (elsewhere : ∀ h, h ≠ g → (s.seg h).standings p = 0)
    (other : e.seg.owner ≠ some p) (once : e.seg.queue.count p = 1) : t.stands p (.entry g) := by
  refine ⟨?_, ?_, fun h other => ?_⟩
  · rw [event.queue, ← List.count_pos_iff, once]
    exact Nat.one_pos
  · rw [event.standings, Segment.standings, if_neg other, once]
  · rw [event.others h other, elsewhere h other]

namespace PortCtl

variable {q r : PortCtl} {M : List PortMsg}

/-! ### Messages received -/

theorem received_nil (q : PortCtl) (g : SegIx) : q.received g [] = q := by simp [received]

theorem received_fromSegment (q : PortCtl) (g k : SegIx) (M : List PortMsg) :
    (q.received g M).fromSegment k = q.fromSegment k ++ if k = g then M else [] := by
  simp only [received, fromSegment, List.filter_append, List.map_append]
  congr 1
  split
  · rename_i same
    subst same
    induction M with
    | nil => rfl
    | cons m M ih => simpa using ih
  · rename_i other
    have apart : (M.map fun m => (g, m)).filter (fun m => decide (m.1 = k)) = [] := by
      rw [List.filter_eq_nil_iff]
      intro m member
      obtain ⟨n, -, rfl⟩ := List.mem_map.mp member
      simpa using Ne.symm other
    rw [apart, List.map_nil]

theorem mem_received {m : SegIx × PortMsg} (member : m ∈ (q.received g M).fromSegments) :
    m ∈ q.fromSegments ∨ (m.1 = g ∧ m.2 ∈ M) := by
  refine (List.mem_append.mp member).imp id fun new => ?_
  obtain ⟨n, inside, rfl⟩ := List.mem_map.mp new
  exact ⟨rfl, inside⟩

theorem unanswered_received (none : q.unanswered) (other : ∀ m ∈ M, m.number? ≠ some q.requests) :
    (q.received g M).unanswered := fun m member => (mem_received member).elim (none m) fun ⟨_, new⟩ => other m.2 new

/-- Before a withdrawal of an entry come no asks. -/
theorem leading_of_entry {l : List (SegIx × SegMsg)} (gives : givesUp (.entry g) l) : leading l = [] := by
  cases l with
  | nil => rfl
  | cons m l =>
    obtain ⟨h, y⟩ := m
    cases y with
    | withdrawal => exact leading_other rfl l
    | ask a => exact gives.elim
    | request n => exact gives.elim
    | release => exact gives.elim

/-- Before the request of a context that waits come no asks, if its messages give up an entry. -/
theorem leading_of_entry_append {l : List (SegIx × SegMsg)} (gives : givesUp (.entry g) l) (m : List (SegIx × SegMsg)) :
    leading (l ++ m) = [] := by
  cases l with
  | nil => exact gives.elim
  | cons n l =>
    obtain ⟨h, y⟩ := n
    cases y with
    | withdrawal => exact leading_other rfl _
    | ask a => exact gives.elim
    | request n => exact gives.elim
    | release => exact gives.elim

/-! ### A port to which nothing happens -/

/-- For port `p` the segments are as they were, and so is what RESTART has cancelled; but RESTART's second step may have ended
it (R127). -/
structure SameStanding (s t : State) (p : Port) : Prop where
  owner : ∀ h, (t.seg h).owner = some p ↔ (s.seg h).owner = some p
  queue : ∀ h, (t.seg h).queue.count p = (s.seg h).queue.count p
  asks : ∀ h, (s.seg h).owner = some p → (t.seg h).asks = (s.seg h).asks
  tickets : ∀ h, (t.seg h).tickets.get p = (s.seg h).tickets.get p
  cancels : s.restartCancels p → t.restartCancels p ∨ s.stands p .away

/-- The same, and no RESTART has begun. -/
structure SameWorld (s t : State) (p : Port) : Prop extends SameStanding s t p where
  runs : t.restartRuns p → s.restartRuns p

namespace Linked

theorem sameStanding (h : q.Linked s p) (same : SameStanding s t p)
    (waits : t.restartRuns p → q.restartWait = true ∧ q.restartDone = false) : q.Linked t p := by
  have stands : ∀ {w}, s.stands p w → t.stands p w := fun old => State.stands_congr same.owner same.queue old
  refine ⟨fun none => ?_, fun k queued => ?_, fun k owned => ?_, ?_, fun k owner other => ?_, waits⟩
  · obtain ⟨w, standing, gives⟩ := h.unlinked none
    refine ⟨w, stands standing, ?_⟩
    rcases gives with gives | ⟨cancels, idle, ⟨k, rfl⟩, asks⟩
    · exact .inl gives
    · rcases same.cancels cancels with still | away
      · exact .inr ⟨still, idle, ⟨k, rfl⟩, asks⟩
      · exact absurd (State.standing_of_owner away standing.1) (by simp)
  · obtain ⟨routed, requested⟩ := h.queued k queued
    refine ⟨routed, ?_⟩
    rcases requested with ⟨w, before, standing, sent, gives, none, others, tickets⟩ | ⟨empty, standing, ticket, none⟩ |
      ⟨empty, before, after, granted, others, kinds, standing⟩ | ⟨empty, standing, refused⟩
    · exact .inl ⟨w, before, stands standing, sent, gives, none, others, fun j => by rw [same.tickets]; exact tickets j⟩
    · exact .inr (.inl ⟨empty, stands standing, by rw [same.tickets]; exact ticket, none⟩)
    · refine .inr (.inr (.inl ⟨empty, before, after, granted, others, kinds, standing.imp stands ?_⟩))
      rintro ⟨owner, idle, live⟩
      exact ⟨stands owner, (same.asks k owner.1).trans idle, live⟩
    · exact .inr (.inr (.inr ⟨empty, stands standing, refused⟩))
  · obtain ⟨mine, standing⟩ := h.owned k owned
    refine ⟨mine, standing.imp stands fun ⟨owner, live, inPhase⟩ => ⟨stands owner, live, ?_⟩⟩
    rw [outstandingAt, same.asks k owner.1]
    exact inPhase
  · obtain ⟨fromBound, toBound, tickets⟩ := h.numbers
    exact ⟨fromBound, toBound, fun k => by rw [same.tickets]; exact tickets k⟩
  · have owner := (same.owner k).mp owner
    rw [same.asks k owner]
    exact h.given k owner other

theorem sameWorld (h : q.Linked s p) (same : SameWorld s t p) : q.Linked t p :=
  h.sameStanding same.toSameStanding fun runs => h.waits (same.runs runs)

/-- A port stands once with a segment at most (R100). -/
theorem single (h : q.Linked s p) (k : SegIx) : (s.seg k).standings p ≤ 1 := by
  obtain ⟨w, stands⟩ := h.stands
  cases w with
  | away => exact (stands k).le.trans (Nat.zero_le 1)
  | owner j | entry j =>
    obtain ⟨-, one, others⟩ := stands
    by_cases same : k = j
    · rw [same, one]
    · exact (others k same).le.trans (Nat.zero_le 1)

theorem numbers_received (h : q.Linked s p) (tickets : ∀ k, (t.seg k).tickets.get p = (s.seg k).tickets.get p)
    (answers : ∀ m ∈ M, ∀ n, m.number? = some n → n = (s.seg g).tickets.get p) :
    (∀ m ∈ (q.received g M).fromSegments, ∀ n, m.2.number? = some n → n ≤ (q.received g M).requests) ∧
      (∀ k n, (k, SegMsg.request n) ∈ (q.received g M).toSegments → n ≤ (q.received g M).requests) ∧
      ∀ k, (t.seg k).tickets.get p ≤ (q.received g M).requests := by
  obtain ⟨fromBound, toBound, bounds⟩ := h.numbers
  refine ⟨fun m member n number => ?_, toBound, fun k => (tickets k).le.trans (bounds k)⟩
  rcases mem_received member with old | ⟨-, new⟩
  · exact fromBound m old n number
  · rw [answers m.2 new n number]
    exact bounds g

theorem waits_received (h : q.Linked s p) (event : SegEvent s t g e) :
    t.restartRuns p → (q.received g M).restartWait = true ∧ (q.received g M).restartDone = false := fun runs =>
  h.waits ((event.restartRuns p).mp runs)

/-! ### The end of a standing -/

theorem leaves (h : q.Linked s p) (event : SegEvent s t g e) (away : e.seg.standings p = 0)
    (tickets : e.seg.tickets.get p = (s.seg g).tickets.get p)
    (messages : ∀ m, (p, m) ∈ e.sends →
      m.isEnding = true ∨ (p ∈ (s.seg g).queue ∧ m = .refusal ((s.seg g).tickets.get p)))
    (refused : p ∈ (s.seg g).queue → (p, .refusal ((s.seg g).tickets.get p)) ∈ e.sends) :
    (q.received g (messagesFor p e.sends)).Linked t p := by
  have kinds : ∀ m ∈ messagesFor p e.sends, m.kind? = none := fun m member => by
    rcases messages m (mem_messagesFor.mp member) with ending | ⟨-, rfl⟩
    · exact (isEnding_silent ending).2
    · rfl
  have answers : ∀ m ∈ messagesFor p e.sends, ∀ n, m.number? = some n →
      p ∈ (s.seg g).queue ∧ n = (s.seg g).tickets.get p := fun m member n number => by
    rcases messages m (mem_messagesFor.mp member) with ending | ⟨queued, rfl⟩
    · rw [(isEnding_silent ending).1] at number
      cases number
    · exact ⟨queued, (Option.some.inj number).symm⟩
  have silent : ∀ {w}, s.stands p w → w ≠ .entry g → ∀ m ∈ messagesFor p e.sends, m.number? ≠ some q.requests :=
    fun stands other m member number => other (State.standing_of_queued stands (answers m member _ number).1)
  refine ⟨fun none => ?_, fun k queued => ?_, fun k owned => ?_,
    h.numbers_received (event.tickets_get tickets) fun m member n number => (answers m member n number).2,
    fun k owner other => ?_, h.waits_received event⟩
  · obtain ⟨w, stands, gives⟩ := h.unlinked none
    rcases event.stands_leaving away stands with ⟨stays, -⟩ | ⟨gone, -⟩
    · exact ⟨w, stays, gives.imp id fun ⟨cancels, rest⟩ => ⟨(event.restartCancels p).mpr cancels, rest⟩⟩
    · exact ⟨_, gone, .inl (gives.elim givesUp_away fun ⟨_, _, _, asks⟩ => givesUp_of_allAsks asks)⟩
  · obtain ⟨routed, requested⟩ := h.queued k queued
    refine ⟨routed, ?_⟩
    rcases requested with ⟨w, before, stands, sent, gives, none, others, fresh⟩ | ⟨empty, stands, ticket, none⟩ |
      ⟨empty, before, after, granted, others, noResult, standing⟩ | ⟨empty, stands, refusal⟩
    · have later : (q.received g (messagesFor p e.sends)).unanswered :=
        unanswered_received none fun m member number => fresh g (answers m member _ number).2.symm
      have fresh' : ∀ j, (t.seg j).tickets.get p ≠ q.requests := fun j => by
        rw [event.tickets_get tickets]
        exact fresh j
      rcases event.stands_leaving away stands with ⟨stays, -⟩ | ⟨gone, -⟩
      · exact .inl ⟨w, before, stays, sent, gives, later, others, fresh'⟩
      · exact .inl ⟨_, before, gone, sent, givesUp_away gives, later, others, fresh'⟩
    · rcases event.stands_leaving away stands with ⟨stays, -, notEntry⟩ | ⟨gone, here⟩
      · exact .inr (.inl ⟨empty, stays, by rw [event.tickets_get tickets]; exact ticket,
          unanswered_received none (silent stands notEntry)⟩)
      · obtain rfl : k = g := by rcases here with same | same <;> cases same; rfl
        have sent := refused stands.1
        rw [ticket] at sent
        refine .inr (.inr (.inr ⟨empty, gone, List.mem_append_right _ (List.mem_map.mpr ⟨_, mem_messagesFor.mpr sent, rfl⟩)⟩))
    · have notEntry : ∀ {w}, s.stands p w → w = .away ∨ w = .owner k → w ≠ .entry g := fun _ standing same => by
        rcases standing with rfl | rfl <;> cases same
      obtain ⟨w, stands, standing⟩ : ∃ w, s.stands p w ∧ (w = .away ∨ w = .owner k) :=
        standing.elim (fun away => ⟨_, away, .inl rfl⟩) fun ⟨owner, _⟩ => ⟨_, owner, .inr rfl⟩
      have quiet := silent stands (notEntry stands standing)
      refine .inr (.inr (.inl ⟨empty, before, after ++ (messagesFor p e.sends).map fun m => (g, m), ?_, fun m member => ?_,
        fun m member mine => ?_, ?_⟩))
      · simp only [received, granted, List.append_assoc, List.cons_append]
      · rw [← List.append_assoc] at member
        rcases List.mem_append.mp member with old | new
        · exact others m old
        · obtain ⟨n, inside, rfl⟩ := List.mem_map.mp new
          exact quiet n inside
      · rcases List.mem_append.mp member with old | new
        · exact noResult m old mine
        · obtain ⟨n, inside, rfl⟩ := List.mem_map.mp new
          exact kinds n inside
      · rename_i both
        rcases both with gone | ⟨owner, idle, live⟩
        · exact .inl ((event.stands_leaving away gone).elim (fun stays => stays.1) fun gone => gone.1)
        · rcases event.stands_leaving away owner with ⟨stays, notOwner, -⟩ | ⟨gone, -⟩
          · have elsewhere : k ≠ g := fun same => notOwner (by rw [same])
            refine .inr ⟨stays, by rw [event.others k elsewhere]; exact idle, fun m member mine => ?_⟩
            rcases List.mem_append.mp member with old | new
            · exact live m old mine
            · obtain ⟨n, -, rfl⟩ := List.mem_map.mp new
              exact absurd mine (Ne.symm elsewhere)
          · exact .inl gone
    · rcases event.stands_leaving away stands with ⟨stays, -⟩ | ⟨gone, -⟩
      · exact .inr (.inr (.inr ⟨empty, stays, List.mem_append_left _ refusal⟩))
      · exact .inr (.inr (.inr ⟨empty, gone, List.mem_append_left _ refusal⟩))
  · obtain ⟨mine, standing⟩ := h.owned k owned
    refine ⟨mine, ?_⟩
    rcases standing with gone | ⟨owner, live, inPhase⟩
    · exact .inl ((event.stands_leaving away gone).elim (fun stays => stays.1) fun gone => gone.1)
    · rcases event.stands_leaving away owner with ⟨stays, notOwner, -⟩ | ⟨gone, -⟩
      · have elsewhere : k ≠ g := fun same => notOwner (by rw [same])
        have messages : (q.received g (messagesFor p e.sends)).fromSegment k = q.fromSegment k := by
          rw [received_fromSegment, if_neg elsewhere, List.append_nil]
        refine .inr ⟨stays, by rw [messages]; exact live, ?_⟩
        rw [outstandingAt, messages, event.others k elsewhere]
        exact inPhase
      · exact .inl gone
  · by_cases here : k = g
    · subst here
      have zero : (t.seg k).standings p = 0 := (event.standings p).trans away
      exact absurd owner ((Segment.standings_eq_zero_iff _ p).mp zero).1
    · rw [event.others k here] at owner ⊢
      exact h.given k owner other

/-! ### A grant -/

theorem elsewhere_of_queued (h : q.Linked s p) (queued : p ∈ (s.seg g).queue) :
    s.stands p (.entry g) ∧ ∀ k, k ≠ g → (s.seg k).standings p = 0 := by
  obtain ⟨w, stands⟩ := h.stands
  obtain rfl := State.standing_of_queued stands queued
  exact ⟨stands, stands.2.2⟩

theorem grantedTo (h : q.Linked s p) (event : SegEvent s t g e) (queued : p ∈ (s.seg g).queue) (owner : e.seg.owner = some p)
    (left : p ∉ e.seg.queue) (asks : e.seg.asks = []) (tickets : e.seg.tickets.get p = (s.seg g).tickets.get p) :
    (q.received g [.grant ((s.seg g).tickets.get p)]).Linked t p := by
  obtain ⟨entry, elsewhere⟩ := h.elsewhere_of_queued queued
  have owns : t.stands p (.owner g) := event.stands_owner elsewhere owner left
  have is_entry : ∀ {w}, s.stands p w → w = .entry g := fun stands => State.standing_of_queued stands queued
  refine ⟨fun none => ?_, fun k link => ?_, fun k owned => ?_,
    h.numbers_received (event.tickets_get tickets) fun m member n number => ?_, fun k owner' other => ?_,
    h.waits_received event⟩
  · obtain ⟨w, stands, gives⟩ := h.unlinked none
    obtain rfl := is_entry stands
    refine ⟨_, owns, .inl (givesUp_owner_of_entry (gives.resolve_right ?_))⟩
    rintro ⟨-, -, ⟨k, same⟩, -⟩
    cases same
  · obtain ⟨routed, requested⟩ := h.queued k link
    refine ⟨routed, ?_⟩
    rcases requested with ⟨w, before, stands, sent, gives, none, others, fresh⟩ | ⟨empty, stands, ticket, none⟩ |
      ⟨-, -, -, -, -, -, gone | ⟨stands, -⟩⟩ | ⟨-, stands, -⟩
    · obtain rfl := is_entry stands
      refine .inl ⟨_, before, owns, sent, givesUp_owner_of_entry gives, unanswered_received none fun m member => ?_, others,
        fun j => by rw [event.tickets_get tickets]; exact fresh j⟩
      rw [List.mem_singleton.mp member]
      exact fun number => fresh g (Option.some.inj number)
    · obtain rfl := Standing.entry.inj (is_entry stands)
      refine .inr (.inr (.inl ⟨empty, q.fromSegments, [], ?_, fun m member => ?_, fun m member => ?_, .inr ⟨owns, ?_,
        fun m member => ?_⟩⟩))
      · simp [received, ticket]
      · exact none m (by simpa using member)
      · cases member
      · rw [event.asks, asks]
      · cases member
    · cases is_entry gone
    · cases is_entry stands
    · cases is_entry stands
  · obtain ⟨-, gone | ⟨stands, -⟩⟩ := h.owned k owned
    · cases is_entry gone
    · cases is_entry stands
  · rw [List.mem_singleton.mp member] at number
    exact (Option.some.inj number).symm
  · obtain rfl := Standing.owner.inj (State.standing_of_owner owns owner')
    have leads : leading q.toSegments = [] := by
      rcases link_cases q with none | ⟨j, link⟩ | ⟨j, link⟩
      · obtain ⟨w, stands, gives⟩ := h.unlinked none
        obtain rfl := is_entry stands
        refine leading_of_entry (gives.resolve_right ?_)
        rintro ⟨-, -, ⟨k, same⟩, -⟩
        cases same
      · obtain ⟨-, ⟨w, before, stands, sent, gives, -⟩ | ⟨empty, -⟩ | ⟨empty, -⟩ | ⟨empty, -⟩⟩ := h.queued j link
        · obtain rfl := is_entry stands
          rw [sent]
          exact leading_of_entry_append gives _
        all_goals
          rw [empty]
          rfl
      · obtain ⟨-, gone | ⟨stands, -⟩⟩ := h.owned j link
        · cases is_entry gone
        · cases is_entry stands
    change (t.seg g).asks.length + (leading q.toSegments).length ≤ 3
    rw [leads, event.asks, asks]
    decide

/-! ### A result -/

theorem answered (h : q.Linked s p) (event : SegEvent s t g e) (owner : (s.seg g).owner = some p)
    (owns : e.seg.owner = some p) (queue : e.seg.queue.count p = (s.seg g).queue.count p) {a : Primitive}
    (asks : (s.seg g).asks = a :: e.seg.asks) {m : PortMsg} (kind : m.kind? = some a.kind)
    (tickets : e.seg.tickets.get p = (s.seg g).tickets.get p) : (q.received g [m]).Linked t p := by
  obtain ⟨numberless, live⟩ := kind_silent kind
  have is_owner : ∀ {w}, s.stands p w → w = .owner g := fun stands => State.standing_of_owner stands owner
  have stands : ∀ {w}, s.stands p w → t.stands p w := fun old => by
    refine State.stands_congr (fun k => ?_) (fun k => ?_) old
    all_goals by_cases here : k = g
    · subst here
      rw [event.owner, owner, owns]
    · rw [event.others k here]
    · subst here
      rw [event.queue, queue]
    · rw [event.others k here]
  have silent : ∀ n ∈ [m], n.number? ≠ some q.requests := fun n member => by
    rw [List.mem_singleton.mp member, numberless]
    nofun
  refine ⟨fun none => ?_, fun k link => ?_, fun k owned => ?_,
    h.numbers_received (event.tickets_get tickets) fun n member i number => ?_, fun k owner' other => ?_,
    h.waits_received event⟩
  · obtain ⟨w, standing, gives⟩ := h.unlinked none
    exact ⟨w, stands standing, gives.imp id fun ⟨cancels, rest⟩ => ⟨(event.restartCancels p).mpr cancels, rest⟩⟩
  · obtain ⟨routed, requested⟩ := h.queued k link
    refine ⟨routed, ?_⟩
    rcases requested with ⟨w, before, standing, sent, gives, none, others, fresh⟩ | ⟨-, entry, -⟩ |
      ⟨-, -, -, -, -, -, gone | ⟨standing, idle, -⟩⟩ | ⟨-, gone, -⟩
    · exact .inl ⟨w, before, stands standing, sent, gives, unanswered_received none silent, others,
        fun j => by rw [event.tickets_get tickets]; exact fresh j⟩
    · cases is_owner entry
    · cases is_owner gone
    · obtain rfl := Standing.owner.inj (is_owner standing)
      cases idle.symm.trans asks
    · cases is_owner gone
  · obtain ⟨mine, gone | ⟨standing, lives, inPhase⟩⟩ := h.owned k owned
    · cases is_owner gone
    · obtain rfl := Standing.owner.inj (is_owner standing)
      have messages : (q.received k [m]).fromSegment k = q.fromSegment k ++ [m] := by rw [received_fromSegment, if_pos rfl]
      refine ⟨mine, .inr ⟨stands standing, fun n member => ?_, ?_⟩⟩
      · rw [messages] at member
        rcases List.mem_append.mp member with old | new
        · exact lives n old
        · rw [List.mem_singleton.mp new, live]
      · have same : (q.received k [m]).outstandingAt t k = q.outstandingAt s k := by
          rw [outstandingAt, messages, event.asks, outstandingAt, asks]
          simp [kind, received, leadingAsks]
        rw [same]
        exact inPhase
  · rw [List.mem_singleton.mp member, numberless] at number
    cases number
  · obtain rfl : k = g := Standing.owner.inj (State.standing_of_owner
      (stands (h.stands.elim fun w standing => is_owner standing ▸ standing)) owner') |>.symm
    have := h.given k owner other
    rw [asks, List.length_cons] at this
    change (t.seg k).asks.length + (leading q.toSegments).length ≤ 3
    rw [event.asks]
    rw [leadingAsks_eq] at this
    omega

/-- What an event at a segment keeps of the link of a port that sees it. -/
theorem seen (h : q.Linked s p) (event : SegEvent s t g e) (sees : Sees p (s.seg g) e)
    (tickets : e.seg.tickets.get p = (s.seg g).tickets.get p) : (q.received g (messagesFor p e.sends)).Linked t p := by
  cases sees with
  | stays owner queue asks messages =>
    rw [messages, received_nil]
    refine h.sameWorld ⟨⟨fun k => ?_, fun k => ?_, fun k owned => ?_, event.tickets_get tickets,
      fun cancels => .inl ((event.restartCancels p).mpr cancels)⟩, (event.restartRuns p).mp⟩
    all_goals by_cases here : k = g
    · subst here
      rw [event.owner, owner]
    · rw [event.others k here]
    · subst here
      rw [event.queue, queue]
    · rw [event.others k here]
    · subst here
      rw [event.asks, asks owned]
    · rw [event.others k here]
  | leaves away messages refused => exact h.leaves event away tickets messages refused
  | granted queued owner left asks messages =>
    rw [messages]
    exact h.grantedTo event queued owner left asks tickets
  | answered owner owns queue a asks m messages kind =>
    rw [messages]
    exact h.answered event owner owns queue asks kind tickets

end Linked

end PortCtl

end Sys2Proof.Machine
end

section
/-! SUPPORT. What an event at a segment, or a message taken at one, keeps of both ports' links (R101 to R103, R107). -/

namespace Sys2Proof.Machine

/-! ### The first message of a port (R103) -/

theorem cons_eq_append_one {α : Type} {m n : α} {rest before : List α} (same : m :: rest = before ++ [n]) :
    (before = [] ∧ m = n ∧ rest = []) ∨ ∃ later, before = m :: later ∧ rest = later ++ [n] := by
  cases before with
  | nil => exact .inl ⟨rfl, (List.cons.inj same).1, (List.cons.inj same).2⟩
  | cons k later =>
    obtain ⟨rfl, rest⟩ := List.cons.inj same
    exact .inr ⟨later, rfl, rest⟩

theorem givesUp_ask {w : Standing} {g : SegIx} {a : Primitive} {l : List (SegIx × SegMsg)}
    (gives : givesUp w ((g, .ask a) :: l)) : givesUp w l ∧ ∀ k, w ≠ .entry k := by
  cases w with
  | away => exact ⟨gives, fun _ => Standing.noConfusion⟩
  | owner k => exact ⟨gives, fun _ => Standing.noConfusion⟩
  | entry k => exact gives.elim

theorem givesUp_request {w : Standing} {g : SegIx} {n : Nat} {l : List (SegIx × SegMsg)}
    (gives : givesUp w ((g, .request n) :: l)) : w = .away ∧ givesUp (.entry g) l := by
  cases w with
  | away => exact ⟨rfl, gives⟩
  | owner k => exact gives.elim
  | entry k => exact gives.elim

theorem givesUp_withdrawal {w : Standing} {g : SegIx} {l : List (SegIx × SegMsg)}
    (gives : givesUp w ((g, .withdrawal) :: l)) : (w = .away ∨ w = .owner g ∨ w = .entry g) ∧ givesUp .away l := by
  cases w with
  | away => exact ⟨.inl rfl, gives⟩
  | owner k => exact ⟨.inr (.inl (congrArg _ gives.1.symm)), gives.2⟩
  | entry k => exact ⟨.inr (.inr (congrArg _ gives.1.symm)), gives.2⟩

theorem givesUp_release_first {w : Standing} {g : SegIx} {l : List (SegIx × SegMsg)}
    (gives : givesUp w ((g, .release) :: l)) : (w = .away ∨ w = .owner g) ∧ givesUp .away l := by
  cases w with
  | away => exact ⟨.inl rfl, gives⟩
  | owner k => exact ⟨.inr (congrArg _ gives.1.symm), gives.2⟩
  | entry k => exact gives.elim

variable {s t : State} {g : SegIx} {e : SegStep} {p : Port}

namespace PortCtl

variable {q r : PortCtl} {M : List PortMsg} {rest : List (SegIx × SegMsg)}

namespace Linked

/-- What the first message of a port gives up, when it is no ask: the port has no link, or its request comes later. -/
theorem first_cases (h : q.Linked s p) {m : SegMsg} (first : q.toSegments = (g, m) :: rest) (other : m.ask? = none) :
    ∃ w, s.stands p w ∧ ((q.link = .none ∧ givesUp w ((g, m) :: rest)) ∨
      ∃ k, q.link = .queued k ∧ q.routed ∧ q.unanswered ∧ (∀ j, (s.seg j).tickets.get p ≠ q.requests) ∧
        ((k = g ∧ m = .request q.requests ∧ rest = [] ∧ w = .away) ∨
          ∃ later, rest = later ++ [(k, .request q.requests)] ∧ m ≠ .request q.requests ∧
            givesUp w ((g, m) :: later) ∧ ∀ m ∈ later, m.2 ≠ .request q.requests)) := by
  rcases link_cases q with link | ⟨k, link⟩ | ⟨k, link⟩
  · obtain ⟨w, stands, gives | ⟨-, -, -, asks⟩⟩ := h.unlinked link
    · exact ⟨w, stands, .inl ⟨link, first ▸ gives⟩⟩
    · have ask := asks (g, m) (by rw [first]; exact List.mem_cons_self)
      rw [other] at ask
      cases ask
  · obtain ⟨routed, ⟨w, before, stands, sent, gives, none, others, fresh⟩ | ⟨empty, -⟩ | ⟨empty, -⟩ | ⟨empty, -⟩⟩ :=
      h.queued k link
    · refine ⟨w, stands, .inr ⟨k, link, routed, none, fresh, ?_⟩⟩
      rcases cons_eq_append_one (first.symm.trans sent) with ⟨rfl, same, last⟩ | ⟨later, rfl, rest⟩
      · obtain ⟨rfl, rfl⟩ := Prod.mk.inj same
        cases w with
        | away => exact .inl ⟨rfl, rfl, last, rfl⟩
        | owner j => exact gives.elim
        | entry j => exact gives.elim
      · exact .inr ⟨later, rest, others (g, m) List.mem_cons_self, gives,
          fun m member => others m (List.mem_cons_of_mem _ member)⟩
    all_goals cases empty.symm.trans first
  · obtain ⟨mine, -⟩ := h.owned k link
    have ask := (mine (g, m) (by rw [first]; exact List.mem_cons_self)).2
    rw [other] at ask
    cases ask

theorem requests_bound (h : q.Linked s p) {m : SegIx × SegMsg} (first : q.toSegments = m :: rest) :
    ∀ k n, (k, SegMsg.request n) ∈ rest → n ≤ q.requests := fun k n member =>
  h.numbers.2.1 k n (by rw [first]; exact List.mem_cons_of_mem m member)

end Linked

/-! ### A request taken (R101) -/

/-- What a request under number `n` comes to: where the port then stands with the segment, and what it is sent. -/
inductive RequestOutcome (t : State) (p : Port) (g : SegIx) (n : Nat) : Standing → List PortMsg → Prop
  | granted (idle : (t.seg g).asks = []) : RequestOutcome t p g n (.owner g) [.grant n]
  | queued (ticket : (t.seg g).tickets.get p = n) : RequestOutcome t p g n (.entry g) []
  | refused : RequestOutcome t p g n .away [.refusal n]

theorem RequestOutcome.gives {n : Nat} {w : Standing} {l : List (SegIx × SegMsg)} (outcome : RequestOutcome t p g n w M)
    (gives : givesUp (.entry g) l) : givesUp w l := by
  cases outcome with
  | granted => exact givesUp_owner_of_entry gives
  | queued => exact gives
  | refused => exact givesUp_away gives

theorem RequestOutcome.answer {n k : Nat} {w : Standing} (outcome : RequestOutcome t p g n w M) {m : PortMsg} (member : m ∈ M)
    (number : m.number? = some k) : k = n := by
  cases outcome with
  | granted | refused =>
    rw [List.mem_singleton.mp member] at number
    exact (Option.some.inj number).symm
  | queued => cases member

theorem Linked.requestTaken (h : q.Linked s p) (event : SegEvent s t g e) {n : Nat} {w : Standing}
    (first : q.toSegments = (g, .request n) :: rest) (stands : t.stands p w) (outcome : RequestOutcome t p g n w M)
    (tickets : ∀ k, (t.seg k).tickets.get p = (s.seg k).tickets.get p ∨ (t.seg k).tickets.get p = n) :
    (({ q with toSegments := rest } : PortCtl).received g M).Linked t p := by
  obtain ⟨v, -, shape⟩ := h.first_cases first rfl
  obtain ⟨fromBound, toBound, bounds⟩ := h.numbers
  have bound : n ≤ q.requests := toBound g n (by rw [first]; exact List.mem_cons_self)
  refine ⟨fun none => ?_, fun k link => ?_, fun k owned => ?_, ⟨fun m member i number => ?_, h.requests_bound first,
    fun k => ?_⟩, fun k owner _ => ?_, h.waits_received (M := M) event⟩
  · rcases shape with ⟨-, gives⟩ | ⟨k, link, -⟩
    · exact ⟨w, stands, .inl (outcome.gives (givesUp_request gives).2)⟩
    · cases link.symm.trans none
  · rcases shape with ⟨none, -⟩ | ⟨j, link', routed, none, fresh, now | later⟩
    · cases none.symm.trans link
    · obtain rfl := Link.queued.inj (link.symm.trans link')
      obtain ⟨rfl, same, rfl, -⟩ := now
      obtain rfl := SegMsg.request.inj same
      refine ⟨routed, ?_⟩
      cases outcome with
      | granted idle =>
        refine .inr (.inr (.inl ⟨rfl, q.fromSegments, [], rfl, fun m member => none m (by simpa using member),
          fun m member => ?_, .inr ⟨stands, idle, fun m member => ?_⟩⟩))
        all_goals cases member
      | queued ticket => exact .inr (.inl ⟨rfl, stands, ticket, unanswered_received none fun m member => by cases member⟩)
      | refused => exact .inr (.inr (.inr ⟨rfl, stands, List.mem_append_right _ (List.mem_singleton_self _)⟩))
    · obtain rfl := Link.queued.inj (link.symm.trans link')
      obtain ⟨before, rfl, notLatest, gives, others⟩ := later
      have other : n ≠ q.requests := fun same => notLatest (by rw [same])
      refine ⟨routed, .inl ⟨w, before, stands, rfl, outcome.gives (givesUp_request gives).2,
        unanswered_received none fun m member number => other (outcome.answer member number).symm, others, fun j => ?_⟩⟩
      rcases tickets j with same | same
      · rw [same]
        exact fresh j
      · rw [same]
        exact other
  · rcases shape with ⟨none, -⟩ | ⟨j, link, -⟩
    · cases none.symm.trans owned
    · cases link.symm.trans owned
  · rcases mem_received member with old | ⟨-, new⟩
    · exact fromBound m old i number
    · rw [outcome.answer new number]
      exact bound
  · rcases tickets k with same | same
    · rw [same]
      exact bounds k
    · rw [same]
      exact bound
  · obtain rfl := State.standing_of_owner stands owner
    generalize place : Standing.owner k = v at outcome
    cases outcome with
    | granted idle =>
      obtain rfl := Standing.owner.inj place
      have leads : leading rest = [] := by
        rcases shape with ⟨-, gives⟩ | ⟨j, -, -, -, -, ⟨-, -, rfl, -⟩ | ⟨later, rfl, -, gives, -⟩⟩
        · exact leading_of_entry (givesUp_request gives).2
        · rfl
        · exact leading_of_entry_append (givesUp_request gives).2 _
      change (t.seg k).asks.length + (leading rest).length ≤ 3
      rw [leads, idle]
      decide
    | queued => cases place
    | refused => cases place

/-! ### A withdrawal or a release taken (R103) -/

theorem Linked.gaveUp (h : q.Linked s p) (event : SegEvent s t g e) {m : SegMsg} (first : q.toSegments = (g, m) :: rest)
    (kind : m = .withdrawal ∨ m = .release) (away : e.seg.standings p = 0)
    (tickets : e.seg.tickets.get p = (s.seg g).tickets.get p) : ({ q with toSegments := rest } : PortCtl).Linked t p := by
  have other : m.ask? = none ∧ ∀ n, m ≠ .request n := by
    rcases kind with rfl | rfl <;> exact ⟨rfl, fun _ => SegMsg.noConfusion⟩
  have given : ∀ {w l}, givesUp w ((g, m) :: l) → (w = .away ∨ w = .owner g ∨ w = .entry g) ∧ givesUp .away l :=
    fun {w l} gives => by
      rcases kind with rfl | rfl
      · exact givesUp_withdrawal gives
      · obtain ⟨place, later⟩ := givesUp_release_first gives
        exact ⟨place.imp id .inl, later⟩
  have leaves : ∀ {w}, s.stands p w → w = .away ∨ w = .owner g ∨ w = .entry g → t.stands p .away := fun stands place => by
    rcases event.stands_leaving away stands with ⟨stays, notOwner, notEntry⟩ | ⟨gone, -⟩
    · rcases place with rfl | same | same
      · exact stays
      · exact absurd same notOwner
      · exact absurd same notEntry
    · exact gone
  obtain ⟨w, stands, shape⟩ := h.first_cases first other.1
  have gone : t.stands p .away := by
    rcases shape with ⟨-, gives⟩ | ⟨k, -, -, -, -, ⟨-, same, -⟩ | ⟨later, -, -, gives, -⟩⟩
    · exact leaves stands (given gives).1
    · exact absurd same (other.2 _)
    · exact leaves stands (given gives).1
  obtain ⟨fromBound, -, bounds⟩ := h.numbers
  refine ⟨fun none => ?_, fun k link => ?_, fun k owned => ?_, ⟨fromBound, h.requests_bound first,
    fun k => (event.tickets_get tickets k).le.trans (bounds k)⟩, fun k owner _ => ?_,
    fun runs => h.waits ((event.restartRuns p).mp runs)⟩
  · rcases shape with ⟨-, gives⟩ | ⟨k, link, -⟩
    · exact ⟨_, gone, .inl (given gives).2⟩
    · cases link.symm.trans none
  · rcases shape with ⟨none, -⟩ | ⟨j, link', routed, none, fresh, ⟨-, same, -⟩ | ⟨later, rfl, -, gives, others⟩⟩
    · cases none.symm.trans link
    · exact absurd same (other.2 _)
    · obtain rfl := Link.queued.inj (link.symm.trans link')
      exact ⟨routed, .inl ⟨_, later, gone, rfl, (given gives).2, none, others,
        fun j => by rw [event.tickets_get tickets]; exact fresh j⟩⟩
  · rcases shape with ⟨none, -⟩ | ⟨j, link, -⟩
    · cases none.symm.trans owned
    · cases link.symm.trans owned
  · exact absurd (State.standing_of_owner gone owner) (by simp)

/-! ### An ask taken (R107) -/

theorem leadingAsks_of_ask {a : Primitive} (first : q.toSegments = (g, .ask a) :: rest) :
    q.leadingAsks = a :: ({ q with toSegments := rest } : PortCtl).leadingAsks := by
  rw [leadingAsks_eq, first, leading_ask]
  rfl

/-- What is left of a port's link when its first message, an ask, has gone to a segment that it does not own. -/
theorem Linked.askDropped (h : q.Linked s p) {a : Primitive} (first : q.toSegments = (g, .ask a) :: rest)
    (other : (s.seg g).owner ≠ some p) : ({ q with toSegments := rest } : PortCtl).Linked s p := by
  obtain ⟨fromBound, -, bounds⟩ := h.numbers
  refine ⟨fun none => ?_, fun k link => ?_, fun k owned => ?_, ⟨fromBound, h.requests_bound first, bounds⟩,
    fun k owner unowned => ?_, h.waits⟩
  · obtain ⟨w, stands, gives⟩ := h.unlinked none
    rw [first] at gives
    exact ⟨w, stands, gives.imp (fun gives => (givesUp_ask gives).1) fun ⟨cancels, idle, owner, asks⟩ =>
      ⟨cancels, idle, owner, fun m member => asks m (List.mem_cons_of_mem _ member)⟩⟩
  · obtain ⟨routed, ⟨w, before, stands, sent, gives, none, others, fresh⟩ | ⟨empty, -⟩ | ⟨empty, -⟩ | ⟨empty, -⟩⟩ :=
      h.queued k link
    · rcases cons_eq_append_one (first.symm.trans sent) with ⟨-, same, -⟩ | ⟨later, rfl, rest⟩
      · cases same
      · exact ⟨routed, .inl ⟨w, later, stands, rest, (givesUp_ask gives).1, none,
          fun m member => others m (List.mem_cons_of_mem _ member), fresh⟩⟩
    all_goals cases empty.symm.trans first
  · obtain ⟨mine, standing⟩ := h.owned k owned
    refine ⟨fun m member => mine m (by rw [first]; exact List.mem_cons_of_mem _ member), standing.imp id fun ⟨stands, _⟩ => ?_⟩
    obtain ⟨rfl, -⟩ := mine (g, .ask a) (by rw [first]; exact List.mem_cons_self)
    exact absurd stands.1 other
  · have := h.given k owner unowned
    rw [leadingAsks_of_ask first, List.length_cons] at this
    omega

/-- The ask of the segment's owner joins its asks. -/
theorem Linked.askTaken (h : q.Linked s p) (ok : PortOk q) (event : SegEvent s t g e) {a : Primitive}
    (first : q.toSegments = (g, .ask a) :: rest) (owner : (s.seg g).owner = some p) (owns : e.seg.owner = some p)
    (queue : e.seg.queue = (s.seg g).queue) (asks : e.seg.asks = (s.seg g).asks ++ [a])
    (tickets : e.seg.tickets = (s.seg g).tickets) :
    ({ q with toSegments := rest } : PortCtl).Linked t p ∧ e.seg.asks.length ≤ 3 := by
  have is_owner : ∀ {w}, s.stands p w → w = .owner g := fun stands => State.standing_of_owner stands owner
  have stands : ∀ {w}, s.stands p w → t.stands p w := fun old => by
    refine State.stands_congr (fun k => ?_) (fun k => ?_) old
    all_goals by_cases here : k = g
    · subst here
      rw [event.owner, owner, owns]
    · rw [event.others k here]
    · subst here
      rw [event.queue, queue]
    · rw [event.others k here]
  have outstanding : ({ q with toSegments := rest } : PortCtl).outstandingAt t g = q.outstandingAt s g := by
    rw [outstandingAt, event.asks, asks, outstandingAt, leadingAsks_of_ask first]
    simp [fromSegment]
  have given : q.link ≠ .owned g →
      e.seg.asks.length + ({ q with toSegments := rest } : PortCtl).leadingAsks.length ≤ 3 := fun other => by
    have := h.given g owner other
    rw [leadingAsks_of_ask first, List.length_cons] at this
    rw [asks, List.length_append, List.length_singleton]
    omega
  have bounds : ∀ k, (t.seg k).tickets.get p = (s.seg k).tickets.get p := event.tickets_get (by rw [tickets])
  obtain ⟨fromBound, -, old⟩ := h.numbers
  refine ⟨⟨fun none => ?_, fun k link => ?_, fun k owned => ?_, ⟨fromBound, h.requests_bound first,
    fun k => (bounds k).le.trans (old k)⟩, fun k owner' unowned => ?_, fun runs => h.waits ((event.restartRuns p).mp runs)⟩, ?_⟩
  · obtain ⟨w, standing, gives⟩ := h.unlinked none
    rw [first] at gives
    exact ⟨w, stands standing, gives.imp (fun gives => (givesUp_ask gives).1) fun ⟨cancels, idle, owner, asks⟩ =>
      ⟨(event.restartCancels p).mpr cancels, idle, owner, fun m member => asks m (List.mem_cons_of_mem _ member)⟩⟩
  · obtain ⟨routed, ⟨w, before, standing, sent, gives, none, others, fresh⟩ | ⟨empty, -⟩ | ⟨empty, -⟩ | ⟨empty, -⟩⟩ :=
      h.queued k link
    · rcases cons_eq_append_one (first.symm.trans sent) with ⟨-, same, -⟩ | ⟨later, rfl, rest⟩
      · cases same
      · exact ⟨routed, .inl ⟨w, later, stands standing, rest, (givesUp_ask gives).1, none,
          fun m member => others m (List.mem_cons_of_mem _ member), fun j => by rw [bounds]; exact fresh j⟩⟩
    all_goals cases empty.symm.trans first
  · obtain ⟨mine, gone | ⟨standing, live, inPhase⟩⟩ := h.owned k owned
    · cases is_owner gone
    · obtain rfl := Standing.owner.inj (is_owner standing)
      refine ⟨fun m member => mine m (by rw [first]; exact List.mem_cons_of_mem _ member), .inr ⟨stands standing, live, ?_⟩⟩
      rw [outstanding]
      exact inPhase
  · obtain ⟨w, standing⟩ := h.stands
    obtain rfl := is_owner standing
    obtain rfl := Standing.owner.inj (State.standing_of_owner (stands standing) owner')
    rw [event.asks]
    exact given unowned
  · by_cases owned : q.link = .owned g
    · obtain ⟨-, gone | ⟨-, -, inPhase⟩⟩ := h.owned g owned
      · cases is_owner gone
      · have few := askedInPhase_length ok owned inPhase
        rw [outstandingAt, leadingAsks_of_ask first] at few
        simp only [List.length_append, List.length_map, List.length_cons] at few
        rw [asks, List.length_append, List.length_singleton]
        omega
    · have := given owned
      omega

end PortCtl

end Sys2Proof.Machine
end

section
/-! SUPPORT. The links after an event at a segment and after a message taken at one (R101 to R103, R107). -/

namespace Sys2Proof.Machine

namespace Segment

variable {x : Segment} {p r : Port}

/-! ### What the other port sees of a message taken -/

theorem sees_takeRequest (ok : SegmentOk x) (other : r ≠ p) (n : Nat) :
    Sees r x (x.takeRequest p n) ∧ (x.takeRequest p n).seg.tickets.get r = x.tickets.get r := by
  have kept : (x.tickets.set p n).get r = x.tickets.get r := by rw [Both.get_set, if_neg other]
  have apart : ∀ m : PortMsg, messagesFor r [(p, m)] = [] := fun m =>
    messagesFor_eq_nil fun n member same => other (by rw [← same, List.mem_singleton.mp member])
  cases state : x.state with
  | idle =>
    have unowned := owner_eq_none ok (by simp [state])
    rw [takeRequest_of_idle state]
    refine ⟨.stays ?_ rfl (fun owner => ?_) (apart _), kept⟩
    · exact iff_of_false (fun same => other (Option.some.inj same).symm) (by simp [unowned])
    · rw [unowned] at owner
      cases owner
  | owned | releasing | clearing =>
    rw [takeRequest_of_waiting (by simp [state])]
    refine ⟨.stays Iff.rfl ?_ (fun _ => rfl) rfl, kept⟩
    change (x.queue ++ [p]).count r = _
    rw [List.count_append, List.count_singleton, if_neg (by simpa using Ne.symm other), Nat.add_zero]
  | disabled | closing | faulted =>
    rw [takeRequest_of_refusing (by simp [state])]
    exact ⟨.stays Iff.rfl rfl (fun _ => rfl) (apart _), rfl⟩

theorem takeRequest_few (x : Segment) (p : Port) (n : Nat) : (x.takeRequest p n).seg.asks.length ≤ x.asks.length := by
  cases state : x.state with
  | idle =>
    rw [takeRequest_of_idle state]
    exact Nat.zero_le _
  | owned | releasing | clearing => rw [takeRequest_of_waiting (by simp [state])]
  | disabled | closing | faulted => rw [takeRequest_of_refusing (by simp [state])]

theorem linking_takeRelease (ok : SegmentOk x) (p : Port) : Linking x (x.takeRelease p) := by
  by_cases owner : x.owner = some p
  · rw [takeRelease_of_owner owner]
    exact linking_enterReleasing ok
  · rw [takeRelease_of_other owner]
    exact linking_unchanged x

theorem sees_takeWithdrawal (ok : SegmentOk x) (other : r ≠ p) (single : x.standings r ≤ 1) :
    Sees r x (x.takeWithdrawal p) ∧ (x.takeWithdrawal p).seg.tickets = x.tickets := by
  by_cases queued : p ∈ x.queue
  · rw [takeWithdrawal_of_queued queued]
    refine ⟨.stays Iff.rfl ?_ (fun _ => rfl) rfl, rfl⟩
    exact List.count_filter (by simpa using other)
  · rw [takeWithdrawal_of_unqueued queued]
    have linking := linking_takeRelease ok p
    exact ⟨linking.sees r single, linking.tickets⟩

theorem takeWithdrawal_few (ok : SegmentOk x) (p : Port) : (x.takeWithdrawal p).seg.asks.length ≤ x.asks.length := by
  by_cases queued : p ∈ x.queue
  · rw [takeWithdrawal_of_queued queued]
  · rw [takeWithdrawal_of_unqueued queued]
    exact (linking_takeRelease ok p).few

/-- The owner's ask joins its asks. -/
theorem takeAsk_kept (owner : x.owner = some p) (a : Primitive) :
    (x.takeAsk p a).seg.owner = x.owner ∧ (x.takeAsk p a).seg.queue = x.queue ∧ (x.takeAsk p a).seg.tickets = x.tickets ∧
      (x.takeAsk p a).seg.asks = x.asks ++ [a] ∧ (x.takeAsk p a).sends = [] := by
  by_cases empty : x.asks = []
  · rw [takeAsk_first owner empty, empty]
    obtain ⟨owner, queue, tickets, asks⟩ := beginsWith_kept [a] x
    exact ⟨owner, queue, tickets, asks, rfl⟩
  · rw [takeAsk_next owner empty]
    exact ⟨rfl, rfl, rfl, rfl, rfl⟩

/-! ### What the sender has given up (R103) -/

/-- A release or a withdrawal ends the ownership of its sender, who is sent nothing. -/
theorem enterReleasing_owner (ok : SegmentOk x) (single : x.standings p ≤ 1) (owner : x.owner = some p) :
    x.enterReleasing.seg.standings p = 0 ∧ messagesFor p x.enterReleasing.sends = [] := by
  have unqueued := not_queued_of_owner single owner
  obtain ⟨z, sends, released⟩ := exists_releasedBy x
  rw [enterReleasing_of_releasedBy ok released]
  obtain ⟨whileDriving, whileOpen, atNone⟩ := released
  by_cases driving : drives x
  · obtain ⟨rfl, rfl⟩ := whileDriving driving
    exact ⟨standings_eq_zero nofun unqueued, rfl⟩
  by_cases position : x.position = .none
  · obtain ⟨rfl, rfl⟩ := atNone driving position
    cases queue : x.queue with
    | nil =>
      rw [idleOrGranted, grantOnIdle, queue]
      exact ⟨standings_eq_zero nofun List.not_mem_nil, rfl⟩
    | cons o rest =>
      rw [queue] at unqueued
      obtain ⟨head, later⟩ := not_or.mp (mt List.mem_cons.mpr unqueued)
      rw [idleOrGranted, grantOnIdle, queue]
      refine ⟨standings_eq_zero (fun same => head (Option.some.inj same).symm) later, messagesFor_eq_nil fun m member same => ?_⟩
      rw [List.mem_singleton.mp member] at same
      exact head same.symm
  · obtain ⟨rfl, rfl⟩ := whileOpen driving position
    exact ⟨standings_eq_zero nofun unqueued, rfl⟩

theorem takeRelease_sender (ok : SegmentOk x) (single : x.standings p ≤ 1) (unqueued : p ∉ x.queue) :
    (x.takeRelease p).seg.standings p = 0 ∧ messagesFor p (x.takeRelease p).sends = [] := by
  by_cases owner : x.owner = some p
  · rw [takeRelease_of_owner owner]
    exact enterReleasing_owner ok single owner
  · rw [takeRelease_of_other owner]
    exact ⟨standings_eq_zero owner unqueued, rfl⟩

theorem takeWithdrawal_sender (ok : SegmentOk x) (single : x.standings p ≤ 1) :
    (x.takeWithdrawal p).seg.standings p = 0 ∧ messagesFor p (x.takeWithdrawal p).sends = [] := by
  by_cases queued : p ∈ x.queue
  · rw [takeWithdrawal_of_queued queued]
    refine ⟨standings_eq_zero (fun owner => not_queued_of_owner single owner queued) ?_, rfl⟩
    simp
  · rw [takeWithdrawal_of_unqueued queued]
    exact takeRelease_sender ok single queued

end Segment

/-! ### What a request comes to (R101) -/

variable {s t : State} {g : SegIx} {e : SegStep} {p : Port} {rest : List (SegIx × SegMsg)}

theorem PortCtl.requestOutcome (away : s.stands p .away) (ok : SegmentOk (s.seg g)) {n : Nat}
    (event : SegEvent s t g ((s.seg g).takeRequest p n)) :
    (∃ w, t.stands p w ∧ PortCtl.RequestOutcome t p g n w (messagesFor p ((s.seg g).takeRequest p n).sends)) ∧
      ∀ k, (t.seg k).tickets.get p = (s.seg k).tickets.get p ∨ (t.seg k).tickets.get p = n := by
  have elsewhere : ∀ h, h ≠ g → (s.seg h).standings p = 0 := fun h _ => away h
  obtain ⟨unowned, unqueued⟩ := (Segment.standings_eq_zero_iff _ p).mp (away g)
  have tickets : (t.seg g).tickets.get p = (s.seg g).tickets.get p ∨ (t.seg g).tickets.get p = n →
      ∀ k, (t.seg k).tickets.get p = (s.seg k).tickets.get p ∨ (t.seg k).tickets.get p = n := fun here k => by
    by_cases same : k = g
    · rw [same]
      exact here
    · exact .inl (by rw [event.others k same])
  cases state : (s.seg g).state with
  | idle =>
    have empty := ok.queue (.inr (.inl state))
    rw [takeRequest_of_idle state] at event ⊢
    refine ⟨⟨_, event.stands_owner elsewhere rfl ?_, ?_⟩, tickets (.inr ?_)⟩
    · exact fun queued => unqueued queued
    · have grant := PortCtl.RequestOutcome.granted (p := p) (n := n) event.asks
      simpa [Segment.grantTo, messagesFor] using grant
    · rw [event.tickets]
      exact Both.get_set_same _ _ _
  | owned | releasing | clearing =>
    rw [takeRequest_of_waiting (by simp [state])] at event ⊢
    have ticket : (t.seg g).tickets.get p = n := by
      rw [event.tickets]
      exact Both.get_set_same _ _ _
    refine ⟨⟨_, event.stands_entry elsewhere unowned ?_, .queued ticket⟩, tickets (.inr ticket)⟩
    change ((s.seg g).queue ++ [p]).count p = 1
    rw [List.count_append, List.count_eq_zero.mpr unqueued, List.count_singleton_self]
  | disabled | closing | faulted =>
    rw [takeRequest_of_refusing (by simp [state])] at event ⊢
    have gone : t.stands p .away :=
      (event.stands_leaving (away g) away).elim (fun stays => stays.1) fun gone => gone.1
    refine ⟨⟨_, gone, ?_⟩, tickets (.inl (by rw [event.tickets]))⟩
    rw [messagesFor_one]
    exact .refused

namespace PortCtl.Linked

variable {q : PortCtl}

theorem away_of_request (h : q.Linked s p) {n : Nat} (first : q.toSegments = (g, .request n) :: rest) : s.stands p .away := by
  obtain ⟨w, stands, ⟨-, gives⟩ | ⟨-, -, -, -, -, ⟨-, -, -, rfl⟩ | ⟨_, -, -, gives, -⟩⟩⟩ := h.first_cases first rfl
  · rw [← (givesUp_request gives).1]
    exact stands
  · exact stands
  · rw [← (givesUp_request gives).1]
    exact stands

theorem unqueued_of_release (h : q.Linked s p) (first : q.toSegments = (g, .release) :: rest) : p ∉ (s.seg g).queue := by
  intro queued
  obtain ⟨w, stands, shape⟩ := h.first_cases first rfl
  obtain rfl := State.standing_of_queued stands queued
  rcases shape with ⟨-, gives⟩ | ⟨-, -, -, -, -, ⟨-, same, -⟩ | ⟨_, -, -, gives, -⟩⟩
  · exact gives.elim
  · cases same
  · exact gives.elim

end PortCtl.Linked

/-! ### Both ports -/

/-- The links after an event at a segment. -/
theorem linksOk_onSegment (h : linksOk s) (linking : Linking (s.seg g) e) : linksOk (s.onSegment g e) := by
  obtain ⟨links, few⟩ := h
  obtain ⟨event, ports⟩ := s.onSegment_event g e
  refine ⟨fun r => ?_, fun k => ?_⟩
  · have link := (linkOk_iff s r).mp (links r)
    rw [linkOk_iff, ports r]
    exact link.seen event (linking.sees r (link.single g)) (by rw [linking.tickets])
  · by_cases same : k = g
    · rw [same, event.asks]
      exact linking.few.trans (few g)
    · rw [event.others k same]
      exact few k

/-- The links after a message of port `p`, taken at segment `g` by the event `e`. -/
theorem linksOk_message (h : linksOk s)
    (sender : ∀ t, SegEvent s t g e →
      (({ s.port p with toSegments := rest } : PortCtl).received g (messagesFor p e.sends)).Linked t p)
    (others : ∀ r, r ≠ p → (s.seg g).standings r ≤ 1 →
      Sees r (s.seg g) e ∧ e.seg.tickets.get r = (s.seg g).tickets.get r)
    (few : e.seg.asks.length ≤ 3) :
    linksOk ((s.setPort p { s.port p with toSegments := rest }).onSegment g e) := by
  obtain ⟨links, bounds⟩ := h
  obtain ⟨dropped, ports⟩ := (s.setPort p { s.port p with toSegments := rest }).onSegment_event g e
  have event : SegEvent s ((s.setPort p { s.port p with toSegments := rest }).onSegment g e) g e :=
    ⟨dropped.here, dropped.others, dropped.interps⟩
  refine ⟨fun r => ?_, fun k => ?_⟩
  · rw [linkOk_iff, ports r, State.port_setPort]
    by_cases same : r = p
    · subst same
      rw [if_pos rfl]
      exact sender _ event
    · have link := (linkOk_iff s r).mp (links r)
      obtain ⟨sees, tickets⟩ := others r same (link.single g)
      rw [if_neg same]
      exact link.seen event sees tickets
  · by_cases same : k = g
    · rw [same, event.asks]
      exact few
    · rw [event.others k same]
      exact bounds k

section

variable (h : linksOk s) (segments : segmentsOk s)

include h segments

theorem linksOk_segmentRequest {n : Nat} (first : (s.port p).toSegments = (g, .request n) :: rest) :
    linksOk ((s.setPort p { s.port p with toSegments := rest }).onSegment g ((s.seg g).takeRequest p n)) := by
  obtain ⟨links, few⟩ := h
  obtain ⟨ok, -⟩ := segments g
  have link := (linkOk_iff s p).mp (links p)
  refine linksOk_message ⟨links, few⟩ (fun t event => ?_) (fun r other _ => Segment.sees_takeRequest ok other n)
    ((Segment.takeRequest_few _ p n).trans (few g))
  obtain ⟨⟨w, stands, outcome⟩, tickets⟩ := PortCtl.requestOutcome (link.away_of_request first) ok event
  exact link.requestTaken event first stands outcome tickets

theorem linksOk_withdrawal (first : (s.port p).toSegments = (g, .withdrawal) :: rest) :
    linksOk ((s.setPort p { s.port p with toSegments := rest }).onSegment g ((s.seg g).takeWithdrawal p)) := by
  obtain ⟨links, few⟩ := h
  obtain ⟨ok, -⟩ := segments g
  have link := (linkOk_iff s p).mp (links p)
  have tickets : ((s.seg g).takeWithdrawal p).seg.tickets = (s.seg g).tickets :=
    (Segment.sees_takeWithdrawal (r := otherPort p) ok (by cases p <;> decide)
      (((linkOk_iff s _).mp (links _)).single g)).2
  refine linksOk_message ⟨links, few⟩ (fun t event => ?_)
    (fun r other single => (Segment.sees_takeWithdrawal ok other single).imp id fun same => by rw [same])
    ((Segment.takeWithdrawal_few ok p).trans (few g))
  obtain ⟨away, silent⟩ := Segment.takeWithdrawal_sender ok (link.single g)
  rw [silent, PortCtl.received_nil]
  exact link.gaveUp event first (.inl rfl) away (by rw [tickets])

theorem linksOk_release (first : (s.port p).toSegments = (g, .release) :: rest) :
    linksOk ((s.setPort p { s.port p with toSegments := rest }).onSegment g ((s.seg g).takeRelease p)) := by
  obtain ⟨links, few⟩ := h
  obtain ⟨ok, -⟩ := segments g
  have link := (linkOk_iff s p).mp (links p)
  have linking := Segment.linking_takeRelease ok p
  refine linksOk_message ⟨links, few⟩ (fun t event => ?_)
    (fun r _ single => ⟨linking.sees r single, by rw [linking.tickets]⟩) (linking.few.trans (few g))
  obtain ⟨away, silent⟩ := Segment.takeRelease_sender ok (link.single g) (link.unqueued_of_release first)
  rw [silent, PortCtl.received_nil]
  exact link.gaveUp event first (.inr rfl) away (by rw [linking.tickets])

end

theorem linksOk_ask (h : linksOk s) (ports : portsOk s) {a : Primitive}
    (first : (s.port p).toSegments = (g, .ask a) :: rest) :
    linksOk ((s.setPort p { s.port p with toSegments := rest }).onSegment g ((s.seg g).takeAsk p a)) := by
  obtain ⟨links, few⟩ := h
  have link := (linkOk_iff s p).mp (links p)
  by_cases owner : (s.seg g).owner = some p
  · obtain ⟨owns, queue, tickets, asks, quiet⟩ := Segment.takeAsk_kept owner a
    have taken := fun t (event : SegEvent s t g _) =>
      link.askTaken (ports p) event first owner (owns.trans owner) queue asks tickets
    obtain ⟨event, -⟩ := s.onSegment_event g ((s.seg g).takeAsk p a)
    refine linksOk_message ⟨links, few⟩ (fun t event => ?_) (fun r other _ => ⟨?_, by rw [tickets]⟩) (taken _ event).2
    · rw [quiet]
      change (PortCtl.received _ g []).Linked t p
      rw [PortCtl.received_nil]
      exact (taken t event).1
    · refine .stays (by rw [owns]) (by rw [queue]) (fun owned => ?_) (by rw [quiet]; rfl)
      exact absurd (Option.some.inj (owned.symm.trans owner)) other
  · rw [takeAsk_of_other owner]
    have linking := Segment.linking_unchanged (s.seg g)
    refine linksOk_message ⟨links, few⟩ (fun t event => ?_) (fun r _ single => ⟨linking.sees r single, rfl⟩) (few g)
    exact (link.askDropped first owner).seen event (linking.sees p (link.single g)) rfl

end Sys2Proof.Machine
end

section
/-! SUPPORT. The links after each event upstream, at the table manager, at a segment, and after each message taken. -/

namespace Sys2Proof.Machine

/-! ### Updates that the links do not read -/

/-- A controller that differs in nothing that its link reads. -/
structure PortCtl.Unseen (q r : PortCtl) : Prop extends PortCtl.SameLink q r where
  bound : r.bound = q.bound
  hold : r.hold = q.hold
  awaiting : r.awaiting = q.awaiting
  restartWait : r.restartWait = q.restartWait
  restartDone : r.restartDone = q.restartDone

theorem PortCtl.Unseen.refl (q : PortCtl) : q.Unseen q := ⟨⟨rfl, rfl, rfl, rfl, rfl, rfl⟩, rfl, rfl, rfl, rfl, rfl⟩

theorem PortCtl.Linked.of_unseen {q r : PortCtl} {s : State} {p : Port} (h : q.Linked s p) (unseen : q.Unseen r) :
    r.Linked s p :=
  h.of_sameLink unseen.toSameLink (fun _ _ => unseen.bound) (fun _ => unseen.hold)
    (fun _ idle => unseen.awaiting.trans idle) (by rw [unseen.restartWait, unseen.restartDone]; exact h.waits)

/-- A state that differs in nothing that the links read. -/
structure Unseen (s t : State) : Prop where
  segments : t.segments = s.segments
  interp : t.interp = s.interp
  ports : ∀ p, (s.port p).Unseen (t.port p)

theorem PortCtl.SameWorld.of_eq {s t : State} (segments : ∀ h, t.seg h = s.seg h) (interps : ∀ p, t.interpOf p = s.interpOf p)
    (p : Port) : PortCtl.SameWorld s t p where
  owner h := by rw [segments]
  queue h := by rw [segments]
  asks h _ := by rw [segments]
  tickets h := by rw [segments]
  cancels := fun cancels => .inl (by simpa only [State.restartCancels, interps] using cancels)
  runs := fun runs => by simpa only [State.restartRuns, interps] using runs

/-- The links in a state where each port's controller is linked, and the segments have few asks. -/
theorem linksOk_of_linked {s : State} (links : ∀ p, (s.port p).Linked s p) (few : ∀ g, (s.seg g).asks.length ≤ 3) :
    linksOk s := ⟨fun p => (linkOk_iff s p).mpr (links p), few⟩

theorem linksOk.linked {s : State} (h : linksOk s) (p : Port) : (s.port p).Linked s p := (linkOk_iff s p).mp (h.1 p)

namespace Unseen

variable {s t u : State}

theorem of_ports (ports : t.ports = s.ports) (segments : t.segments = s.segments) (interp : t.interp = s.interp) :
    Unseen s t := ⟨segments, interp, fun p => by rw [State.port, State.port, ports]; exact .refl _⟩

theorem refl (s : State) : Unseen s s := of_ports rfl rfl rfl

theorem trans (a : Unseen s t) (b : Unseen t u) : Unseen s u where
  segments := b.segments.trans a.segments
  interp := b.interp.trans a.interp
  ports p := by
    obtain ⟨⟨l, ph, f, o, i, n⟩, bd, hd, aw, w, d⟩ := a.ports p
    obtain ⟨⟨l', ph', f', o', i', n'⟩, bd', hd', aw', w', d'⟩ := b.ports p
    exact ⟨⟨l'.trans l, ph'.trans ph, f'.trans f, o'.trans o, i'.trans i, n'.trans n⟩, bd'.trans bd, hd'.trans hd,
      aw'.trans aw, w'.trans w, d'.trans d⟩

theorem seg (h : Unseen s t) (g : SegIx) : t.seg g = s.seg g := by rw [State.seg, h.segments, State.seg]

theorem interpOf (h : Unseen s t) (p : Port) : t.interpOf p = s.interpOf p := by
  rw [State.interpOf, h.interp, State.interpOf]

theorem linksOk (h : Unseen s t) (links : linksOk s) : linksOk t :=
  linksOk_of_linked (fun p => ((links.linked p).of_unseen (h.ports p)).sameWorld (.of_eq h.seg h.interpOf p))
    fun g => by rw [h.seg]; exact links.2 g

theorem setPort {q : PortCtl} {p : Port} (h : (s.port p).Unseen q) : Unseen s (s.setPort p q) :=
  ⟨rfl, rfl, fun r => by
    rw [State.port_setPort]
    split
    · rename_i same
      rw [same]
      exact h
    · exact .refl _⟩

theorem raise (s : State) (n : Notice) : Unseen s (s.raise n) := of_ports rfl rfl rfl

theorem raiseIf (s : State) (b : Bool) (n : Notice) : Unseen s (s.raiseIf b n) := by
  obtain ⟨_, _, e⟩ := State.raiseIf_only s b n
  rw [e]
  exact of_ports rfl rfl rfl

theorem advanceTo (s : State) (n : Nat) : Unseen s (s.advanceTo n) := of_ports rfl rfl rfl

theorem setSlot (s : State) (k : SlotIx) (x : Slot) : Unseen s (s.setSlot k x) := of_ports rfl rfl rfl

theorem dropTableMsg (s : State) (p : Port) : Unseen s (s.dropTableMsg p) :=
  setPort ⟨⟨rfl, rfl, rfl, rfl, rfl, rfl⟩, rfl, rfl, rfl, rfl, rfl⟩

theorem replyTo (s : State) (p : Port) (r : TableReply) : Unseen s (s.replyTo p r) :=
  setPort ⟨⟨rfl, rfl, rfl, rfl, rfl, rfl⟩, rfl, rfl, rfl, rfl, rfl⟩

theorem bindWinner (s : State) (b : Option Binding) : Unseen s (s.bindWinner b) := by
  cases b with
  | none => exact refl s
  | some b => exact setSlot s _ _

theorem reloadIdle (s : State) : Unseen s s.reloadIdle := by
  obtain ⟨c, e⟩ := reloadIdle_only s
  rw [e]
  exact of_ports rfl rfl rfl

/-! ### The change set -/

theorem takeStage (s : State) (p : Port) (k : SlotIx) (i : Image) : Unseen s (s.takeStage p k i).1 := by
  unfold State.takeStage
  split
  · exact refl s
  · split
    · exact reloadIdle s
    · split
      · exact reloadIdle s
      · exact of_ports rfl rfl rfl

theorem takeUnstage (s : State) (p : Port) (k : SlotIx) : Unseen s (s.takeUnstage p k).1 := by
  unfold State.takeUnstage
  split
  · exact refl s
  · split
    · exact reloadIdle s
    · exact (setSlot s k _).trans (reloadIdle _)

theorem takeMark (s : State) (p : Port) (k : SlotIx) (gen : BitVec 8) : Unseen s (s.takeMark p k gen).1 := by
  unfold State.takeMark
  split
  · exact refl s
  · split
    · exact reloadIdle s
    · split
      · exact reloadIdle s
      · exact of_ports rfl rfl rfl

theorem takeUnmark (s : State) (p : Port) (k : SlotIx) (gen : BitVec 8) : Unseen s (s.takeUnmark p k gen).1 := by
  unfold State.takeUnmark
  split
  · exact refl s
  · split
    · exact reloadIdle s
    · split
      · exact reloadIdle s
      · exact (setSlot s k _).trans (reloadIdle _)

theorem takeCommit (s : State) (p : Port) : Unseen s (s.takeCommit p).1 := by
  unfold State.takeCommit
  split
  · exact refl s
  · split
    · exact refl s
    · split
      · exact reloadIdle s
      · split
        · exact reloadIdle s
        · exact of_ports rfl rfl rfl

theorem takeAbandon (s : State) (p : Port) : Unseen s (s.takeAbandon p).1 := by
  unfold State.takeAbandon
  split
  · exact refl s
  · split
    · exact refl s
    · exact of_ports rfl rfl rfl

theorem takeRenew (s : State) (k : SlotIx) (gen : BitVec 8) : Unseen s (s.takeRenew k gen).1 := by
  unfold State.takeRenew
  split
  · exact refl s
  · split
    · exact refl s
    · exact setSlot s k _

theorem takeRevive (s : State) (k : SlotIx) (gen : BitVec 8) : Unseen s (s.takeRevive k gen).1 := by
  unfold State.takeRevive
  split
  · exact refl s
  · split
    · exact refl s
    · exact setSlot s k _

end Unseen

/-! ### What an event answers -/

/-- An event in a state with sound links answers a next state with sound links. -/
def LinksKept (r : StepResult) : Prop := ∃ t, r = .next t ∧ linksOk t

theorem linksOk.kept {t : State} (h : linksOk t) : LinksKept (.next t) := ⟨t, rfl, h⟩

section

variable {s : State} (h : linksOk s)

include h

theorem linksOk_setPort {p : Port} {q : PortCtl} (link : q.Linked s p) : linksOk (s.setPort p q) := by
  refine linksOk_of_linked (fun r => ?_) h.2
  rw [State.port_setPort]
  refine PortCtl.Linked.sameWorld (s := s) ?_ (.of_eq (s := s) (t := s.setPort p q) (fun _ => rfl) (fun _ => rfl) r)
  split
  · rename_i same
    rw [same]
    exact link
  · exact h.linked r

theorem linksKept_onPort {p : Port} {f : PortCtl → PortCtl} (link : (f (s.port p)).Linked s p) :
    LinksKept (.next (s.onPort p f)) := (linksOk_setPort h link).kept

theorem linksOk_onPortMiss {p : Port} {r : PortCtl × Bool} (link : r.1.Linked s p) : linksOk (s.onPortMiss p r) :=
  (Unseen.raiseIf _ _ _).linksOk (linksOk_setPort h link)

/-- A message of segment `g` first under way, taken at its port. -/
theorem linksKept_takeMessage {p : Port} {g : SegIx} {f : PortMsg → PortCtl → Option PortCtl}
    (taken : ∀ m rest, firstMessage (s.port p) g m rest → ∀ r, f m { s.port p with fromSegments := rest } = some r →
      r.Linked s p) : LinksKept (.next (s.takeMessage p g f)) := by
  refine linksOk.kept ?_
  unfold State.takeMessage
  split
  · rename_i m rest found
    split
    · rename_i r accepted
      exact linksOk_setPort h (taken m rest (PortCtl.takeFrom_eq_some found) r accepted)
    · exact h
  · exact h

theorem linksKept_onSegment {g : SegIx} {e : SegStep} (linking : Linking (s.seg g) e) :
    LinksKept (.next (s.onSegment g e)) := (linksOk_onSegment h linking).kept

/-! ### Events of a port and of the table manager -/

section

variable (ports : portsOk s) (p : Port) (g : SegIx)

theorem linksKept_lookup : LinksKept (execLookup p s) := by
  unfold execLookup
  split
  · refine linksOk.kept (Unseen.linksOk ?_ h)
    exact (((Unseen.bindWinner s _).trans (.dropTableMsg _ p)).trans (.replyTo _ p _)).trans (.raiseIf _ _ _)
  · exact h.kept

theorem linksKept_prefixTest : LinksKept (execPrefixTest p s) := by
  unfold execPrefixTest
  split
  · refine linksOk.kept (Unseen.linksOk ?_ h)
    exact ((Unseen.dropTableMsg s p).trans (.replyTo _ p _)).trans (.raiseIf _ _ _)
  · exact h.kept

theorem linksKept_unbind : LinksKept (execUnbind p s) := by
  unfold execUnbind
  split
  · refine linksOk.kept (Unseen.linksOk ?_ h)
    exact ((Unseen.setSlot s _ _).trans (.dropTableMsg _ p)).trans (.raiseIf _ _ _)
  · exact h.kept

theorem linksKept_acceptanceReport : LinksKept (execAcceptanceReport p s) := by
  unfold execAcceptanceReport
  split
  · exact (((Unseen.setSlot s _ _).trans (.dropTableMsg _ p)).linksOk h).kept
  · exact h.kept

theorem linksKept_refusalReport : LinksKept (execRefusalReport p s) := by
  unfold execRefusalReport
  split
  · refine linksOk.kept (Unseen.linksOk ?_ h)
    exact ((Unseen.setSlot s _ _).trans (.dropTableMsg _ p)).trans (.raiseIf _ _ _)
  · exact h.kept

theorem linksKept_leaseExpiry (k : SlotIx) : LinksKept (execLeaseExpiry k s) := by
  unfold execLeaseExpiry
  split
  · split
    · refine linksOk.kept (Unseen.linksOk ?_ h)
      exact ((Unseen.advanceTo s _).trans (.setSlot _ k _)).trans (.raise _ _)
    · exact h.kept
  all_goals exact h.kept

theorem linksKept_idleExpiry : LinksKept (execIdleExpiry s) := by
  unfold execIdleExpiry
  split
  · refine linksOk.kept (Unseen.linksOk ?_ h)
    exact Unseen.of_ports rfl rfl rfl
  all_goals exact h.kept

include ports

theorem linksKept_holdExpiry : LinksKept (execHoldExpiry p s) := by
  unfold execHoldExpiry
  split
  · rename_i moment _
    have advanced := (Unseen.advanceTo s moment).linksOk h
    have expired := linksOk_setPort advanced (PortCtl.takeHoldExpiry_linked (advanced.linked p) (ports p))
    exact ((Unseen.raise _ _).linksOk expired).kept
  · exact h.kept

theorem linksKept_lookupOutcome : LinksKept (execLookupOutcome p s) := by
  unfold execLookupOutcome
  split
  · have dropped : ∀ rest, ({ s.port p with fromTable := rest } : PortCtl).Linked s p := fun rest =>
      (h.linked p).of_unseen ⟨⟨rfl, rfl, rfl, rfl, rfl, rfl⟩, rfl, rfl, rfl, rfl, rfl⟩
    exact linksKept_onPort h
      (PortCtl.takeLookupOutcome_linked (dropped _) (PortCtl.ok_messages (ports p) _ _ _ _ _ _) _ _)
  · exact h.kept

theorem linksKept_prefixOutcome : LinksKept (execPrefixOutcome p s) := by
  unfold execPrefixOutcome
  split
  · have dropped : ∀ rest, ({ s.port p with fromTable := rest } : PortCtl).Linked s p := fun rest =>
      (h.linked p).of_unseen ⟨⟨rfl, rfl, rfl, rfl, rfl, rfl⟩, rfl, rfl, rfl, rfl, rfl⟩
    exact linksKept_onPort h
      (PortCtl.takePrefixOutcome_linked (dropped _) (PortCtl.ok_messages (ports p) _ _ _ _ _ _) _)
  · exact h.kept

/-! ### Messages of a segment taken at a port -/

theorem linksKept_grantTaken : LinksKept (execGrantTaken p g s) :=
  linksKept_takeMessage h fun m rest first r taken => by
    split at taken <;> cases taken
    exact PortCtl.takeGrant_linked (h.linked p) (ports p) first

theorem linksKept_refusalTaken : LinksKept (execRefusalTaken p g s) :=
  linksKept_takeMessage h fun m rest first r taken => by
    split at taken <;> cases taken
    exact PortCtl.takeRefusal_linked (h.linked p) (ports p) first

theorem linksKept_addressAck : LinksKept (execAddressAck p g s) :=
  linksKept_takeMessage h fun m rest first r taken => by
    split at taken <;> cases taken
    exact PortCtl.takeAddressAck_linked (h.linked p) (ports p) first

theorem linksKept_addressNack : LinksKept (execAddressNack p g s) :=
  linksKept_takeMessage h fun m rest first r taken => by
    split at taken <;> cases taken
    exact PortCtl.takeAddressNack_linked (h.linked p) (ports p) first

theorem linksKept_writeByteResult : LinksKept (execWriteByteResult p g s) :=
  linksKept_takeMessage h fun m rest first r taken => by
    split at taken <;> cases taken
    exact PortCtl.takeWriteResult_linked (h.linked p) (ports p) first

theorem linksKept_readByteResult : LinksKept (execReadByteResult p g s) :=
  linksKept_takeMessage h fun m rest first r taken => by
    split at taken <;> cases taken
    exact PortCtl.takeReadResult_linked (h.linked p) (ports p) first

theorem linksKept_ackBitDone : LinksKept (execAckBitDone p g s) :=
  linksKept_takeMessage h fun m rest first r taken => by
    split at taken <;> cases taken
    exact PortCtl.ackBitDone_linked (h.linked p) (ports p) first

theorem linksKept_lost : LinksKept (execLost p g s) :=
  linksKept_takeMessage h fun m rest first r taken => by
    split at taken <;> cases taken
    exact PortCtl.takeEnding_linked (h.linked p) (ports p) rfl first

theorem linksKept_fault : LinksKept (execFault p g s) :=
  linksKept_takeMessage h fun m rest first r taken => by
    split at taken <;> cases taken
    exact PortCtl.takeEnding_linked (h.linked p) (ports p) rfl first

theorem linksKept_cancelled : LinksKept (execCancelled p g s) :=
  linksKept_takeMessage h fun m rest first r taken => by
    split at taken <;> cases taken
    exact PortCtl.takeEnding_linked (h.linked p) (ports p) rfl first

end

/-! ### Messages of a port taken at a segment -/

section

variable (segments : segmentsOk s) (p : Port) (g : SegIx)

theorem linksKept_ask (ports : portsOk s) : LinksKept (execAsk p s) := by
  unfold execAsk
  split
  · rename_i first
    rw [State.dropSegMsg_of_first first]
    exact (linksOk_ask h ports first).kept
  · exact h.kept

include segments

theorem linksKept_segmentRequest : LinksKept (execSegmentRequest p s) := by
  unfold execSegmentRequest
  split
  · rename_i first
    rw [State.dropSegMsg_of_first first]
    exact (linksOk_segmentRequest h segments first).kept
  · exact h.kept

theorem linksKept_withdrawal : LinksKept (execWithdrawal p s) := by
  unfold execWithdrawal
  split
  · rename_i first
    rw [State.dropSegMsg_of_first first]
    exact (linksOk_withdrawal h segments first).kept
  · exact h.kept

theorem linksKept_release : LinksKept (execRelease p s) := by
  unfold execRelease
  split
  · rename_i first
    rw [State.dropSegMsg_of_first first]
    exact (linksOk_release h segments first).kept
  · exact h.kept

/-! ### Events at a segment -/

theorem linksKept_clockLowExpiry : LinksKept (execClockLowExpiry g s) := by
  unfold execClockLowExpiry
  split
  · exact linksKept_onSegment ((Unseen.advanceTo s _).linksOk h) (Segment.linking_clockLowExpiry (segments g).1 g)
  · exact h.kept

omit segments in
theorem linksKept_startCondition : LinksKept (execStartCondition g s) := by
  unfold execStartCondition
  split
  · split
    · exact linksKept_onSegment ((Unseen.advanceTo s _).linksOk h) (Segment.linking_makeStart _)
    · exact linksKept_onSegment h (Segment.linking_makeStart _)
  · exact linksKept_onSegment h (Segment.linking_comeToRestart _)
  · exact linksKept_onSegment h (Segment.linking_tenBitRestart _ _)
  all_goals exact h.kept

end

end

end Sys2Proof.Machine
end

section
/-! The links after the events of the interpreter and the steps of RESTART, and after every step (R67, R96, R100, R103, R107). -/

namespace Sys2Proof.Machine

theorem port_cases (p r : Port) : r = p ∨ r = otherPort p := by cases p <;> cases r <;> decide

theorem otherPort_otherPort (p : Port) : otherPort (otherPort p) = p := by cases p <;> rfl

/-! ### The interpreter -/

section

variable {s : State} {p : Port}

/-- A RESTART whose first step is its latest has not completed. -/
theorem State.restartRuns_of_cancels {r : Port} (cancels : s.restartCancels r) : s.restartRuns r := by
  obtain ⟨e, gen, a, running, restarting⟩ := cancels
  exact ⟨e, running, .inr ⟨1, gen, a, restarting⟩⟩

/-- An execution that has been handed to another block, or has its result, restarts nothing. -/
theorem State.not_restartRuns_of_passed {c : Command} (passed : s.passedCommand p = some c) (other : c ≠ .restart) :
    ¬ s.restartRuns (otherPort p) := by
  rintro ⟨e, running, progress⟩
  rw [otherPort_otherPort] at running
  simp only [State.passedCommand, running] at passed
  rcases progress with progress | ⟨n, gen, a, progress⟩
  · rw [progress] at passed
    exact other (Option.some.inj passed).symm
  · rw [progress] at passed
    cases passed

theorem State.not_restartRuns_of_waiting {r : Result} (waiting : s.waitingResult p = some r) :
    ¬ s.restartRuns (otherPort p) := by
  rintro ⟨e, running, progress⟩
  rw [otherPort_otherPort] at running
  simp only [State.waitingResult, running] at waiting
  rcases progress with progress | ⟨n, gen, a, progress⟩
  all_goals
    rw [progress] at waiting
    cases waiting

theorem State.restartRuns_setInterp_self (x : InterpPort) : (s.setInterp p x).restartRuns p ↔ s.restartRuns p := by
  simp only [State.restartRuns, State.interpOf_setInterp, if_neg (otherPort_ne p)]

theorem State.restartCancels_setInterp_self (x : InterpPort) : (s.setInterp p x).restartCancels p ↔ s.restartCancels p := by
  simp only [State.restartCancels, State.interpOf_setInterp, if_neg (otherPort_ne p)]

theorem State.restartRuns_setInterp_other (x : InterpPort) : (s.setInterp p x).restartRuns (otherPort p) ↔
    ∃ e, x.execution = some e ∧ (e.progress = .passed .restart ∨ ∃ n gen a, e.progress = .restarting n gen a) := by
  simp only [State.restartRuns, otherPort_otherPort, State.interpOf_setInterp_same]

/-- What an interpreter's state is for the ports: only RESTART of the other port matters (R72). -/
theorem sameStanding_setInterp {x : InterpPort} (r : Port)
    (cancels : s.restartCancels (otherPort p) →
      (s.setInterp p x).restartCancels (otherPort p) ∨ s.stands (otherPort p) .away) :
    PortCtl.SameStanding s (s.setInterp p x) r where
  owner _ := Iff.rfl
  queue _ := rfl
  asks _ _ := rfl
  tickets _ := rfl
  cancels := by
    rcases port_cases p r with rfl | rfl
    · exact fun cancels => .inl ((State.restartCancels_setInterp_self x).mpr cancels)
    · exact cancels

theorem linksOk_setInterp (h : linksOk s) {x : InterpPort}
    (runs : (s.setInterp p x).restartRuns (otherPort p) → s.restartRuns (otherPort p))
    (cancels : s.restartCancels (otherPort p) →
      (s.setInterp p x).restartCancels (otherPort p) ∨ s.stands (otherPort p) .away) : linksOk (s.setInterp p x) := by
  refine linksOk_of_linked (fun r => (h.linked r).sameWorld ⟨sameStanding_setInterp r cancels, ?_⟩) h.2
  rcases port_cases p r with rfl | rfl
  · exact (State.restartRuns_setInterp_self x).mp
  · exact runs

theorem linksOk_writeResponse (h : linksOk s) (live : ¬ s.restartCancels (otherPort p)) (r : Result) :
    linksOk (s.writeResponse p r) := by
  have written : linksOk (s.setInterp p
      { buffer := responseBytes (s.formResponse r).1 (s.formResponse r).2, execution := none }) := by
    refine linksOk_setInterp h (fun runs => ?_) fun cancels => absurd cancels live
    obtain ⟨e, running, -⟩ := (State.restartRuns_setInterp_other _).mp runs
    cases running
  refine Unseen.linksOk ?_ written
  exact Unseen.setPort ⟨⟨rfl, rfl, rfl, rfl, rfl, rfl⟩, rfl, rfl, rfl, rfl, rfl⟩

theorem linksOk_reply (h : linksOk s) (live : ¬ s.restartCancels (otherPort p)) (t : ReplyTime) (r : Result) :
    linksOk (s.reply p t r) := by
  cases t with
  | atOnce => exact linksOk_writeResponse h live r
  | later =>
    refine linksOk_setInterp h (fun runs => ?_) fun cancels => absurd cancels live
    obtain ⟨e, running, progress⟩ := (State.restartRuns_setInterp_other _).mp runs
    obtain ⟨f, -, rfl⟩ := Option.map_eq_some_iff.mp running
    rcases progress with progress | ⟨n, gen, a, progress⟩ <;> cases progress

/-- The result of a command that its port's execution has passed on. -/
theorem linksKept_finish {c : Command} (passed : s.passedCommand p = some c) (other : c ≠ .restart) {r : State × Result}
    (links : linksOk r.1) (interps : ∀ p, r.1.interpOf p = s.interpOf p) (t : ReplyTime) : LinksKept (finish p t r) := by
  refine (linksOk_reply links (fun cancels => State.not_restartRuns_of_passed passed other ?_) t r.2).kept
  refine State.restartRuns_of_cancels ?_
  simpa only [State.restartCancels, interps] using cancels

theorem linksKept_finish_unseen (h : linksOk s) {c : Command} (passed : s.passedCommand p = some c) (other : c ≠ .restart)
    {r : State × Result} (unseen : Unseen s r.1) (t : ReplyTime) : LinksKept (finish p t r) :=
  linksKept_finish passed other (unseen.linksOk h) unseen.interpOf t

end

/-- Segments that keep the owner, the queue, the asks and the tickets. -/
theorem linksOk_of_segments {s t : State} (h : linksOk s) (ports : ∀ p, t.port p = s.port p)
    (interps : ∀ p, t.interpOf p = s.interpOf p)
    (segments : ∀ g, (t.seg g).owner = (s.seg g).owner ∧ (t.seg g).queue = (s.seg g).queue ∧
      (t.seg g).asks = (s.seg g).asks ∧ (t.seg g).tickets = (s.seg g).tickets) : linksOk t := by
  refine linksOk_of_linked (fun p => ?_) fun g => ?_
  · rw [ports]
    refine (h.linked p).sameWorld ⟨⟨fun g => ?_, fun g => ?_, fun g _ => ?_, fun g => ?_, fun cancels => .inl ?_⟩, fun runs => ?_⟩
    · rw [(segments g).1]
    · rw [(segments g).2.1]
    · exact (segments g).2.2.1
    · rw [(segments g).2.2.2]
    · simpa only [State.restartCancels, interps] using cancels
    · simpa only [State.restartRuns, interps] using runs
  · rw [(segments g).2.2.1]
    exact h.2 g

section

variable {s : State} (h : linksOk s) (p : Port) (t : ReplyTime)

include h

/-! ### The commands at their blocks -/

theorem linksKept_stage : LinksKept (execStage p t s) := by
  unfold execStage
  split
  · exact linksKept_finish_unseen h ‹_› Command.noConfusion (.takeStage s p _ _) t
  · exact h.kept

theorem linksKept_unstage : LinksKept (execUnstage p t s) := by
  unfold execUnstage
  split
  · exact linksKept_finish_unseen h ‹_› Command.noConfusion (.takeUnstage s p _) t
  · exact h.kept

theorem linksKept_mark : LinksKept (execMark p t s) := by
  unfold execMark
  split
  · exact linksKept_finish_unseen h ‹_› Command.noConfusion (.takeMark s p _ _) t
  · exact h.kept

theorem linksKept_unmark : LinksKept (execUnmark p t s) := by
  unfold execUnmark
  split
  · exact linksKept_finish_unseen h ‹_› Command.noConfusion (.takeUnmark s p _ _) t
  · exact h.kept

theorem linksKept_commit : LinksKept (execCommit p t s) := by
  unfold execCommit
  split
  · exact linksKept_finish_unseen h ‹_› Command.noConfusion (.takeCommit s p) t
  · exact h.kept

theorem linksKept_abandon : LinksKept (execAbandon p t s) := by
  unfold execAbandon
  split
  · exact linksKept_finish_unseen h ‹_› Command.noConfusion (.takeAbandon s p) t
  · exact h.kept

theorem linksKept_renew : LinksKept (execRenew p t s) := by
  unfold execRenew
  split
  · exact linksKept_finish_unseen h ‹_› Command.noConfusion (.takeRenew s _ _) t
  · exact h.kept

theorem linksKept_revive : LinksKept (execRevive p t s) := by
  unfold execRevive
  split
  · exact linksKept_finish_unseen h ‹_› Command.noConfusion (.takeRevive s _ _) t
  · exact h.kept

theorem linksKept_readRecord : LinksKept (execReadRecord p t s) := by
  unfold execReadRecord
  split
  · exact linksKept_finish_unseen h ‹_› Command.noConfusion (.refl s) t
  · exact h.kept

theorem linksKept_probe : LinksKept (execProbe p t s) := by
  unfold execProbe
  split
  · exact linksKept_finish_unseen h ‹_› Command.noConfusion (.refl s) t
  · exact h.kept

theorem linksKept_readStatus : LinksKept (execReadStatus p t s) := by
  unfold execReadStatus
  split
  · exact linksKept_finish_unseen h ‹_› Command.noConfusion (.refl s) t
  · exact h.kept

theorem linksKept_readSegment : LinksKept (execReadSegment p t s) := by
  unfold execReadSegment
  split
  · exact linksKept_finish_unseen h ‹_› Command.noConfusion (.refl s) t
  · exact h.kept

theorem linksKept_readNotices : LinksKept (execReadNotices p t s) := by
  unfold execReadNotices
  split
  · exact linksKept_finish_unseen h ‹_› Command.noConfusion (.refl s) t
  · exact h.kept

theorem linksOk_takeSegmentConfig (g : SegIx) (c : ConfigChange) :
    linksOk (s.takeSegmentConfig g c).1 ∧ ∀ p, (s.takeSegmentConfig g c).1.interpOf p = s.interpOf p := by
  unfold State.takeSegmentConfig
  split
  · refine ⟨linksOk_of_segments h (fun _ => rfl) (fun _ => rfl) fun k => ?_, fun _ => rfl⟩
    rw [State.seg_setSeg]
    split
    · rename_i same
      rw [same]
      exact ⟨rfl, rfl, rfl, rfl⟩
    · exact ⟨rfl, rfl, rfl, rfl⟩
  all_goals exact ⟨h, fun _ => rfl⟩

theorem linksKept_segmentConfig : LinksKept (execSegmentConfig p t s) := by
  unfold execSegmentConfig
  split
  · obtain ⟨links, interps⟩ := linksOk_takeSegmentConfig h _ _
    exact linksKept_finish ‹_› Command.noConfusion links interps t
  · exact h.kept

theorem linksKept_portConfig : LinksKept (execPortConfig p t s) := by
  unfold execPortConfig
  split
  · refine linksKept_finish_unseen h ‹_› Command.noConfusion (.setPort ?_) t
    exact ⟨⟨rfl, rfl, rfl, rfl, rfl, rfl⟩, rfl, rfl, rfl, rfl, rfl⟩
  · exact h.kept

theorem linksKept_globalConfig : LinksKept (execGlobalConfig p t s) := by
  unfold execGlobalConfig
  split
  · exact linksKept_finish_unseen h ‹_› Command.noConfusion (.of_ports rfl rfl rfl) t
  · exact h.kept

theorem linksKept_clearNotices : LinksKept (execClearNotices p t s) := by
  unfold execClearNotices
  split
  · exact linksKept_finish_unseen h ‹_› Command.noConfusion (.of_ports rfl rfl rfl) t
  · exact h.kept

section

variable (segments : segmentsOk s)

include segments

/-- An action at a segment, with its result (R189). -/
theorem linksKept_action {c : Command} (passed : s.passedCommand p = some c) (other : c ≠ .restart) {g : SegIx} {e : SegStep}
    (linking : SegmentOk (s.seg g) → Linking (s.seg g) e) : LinksKept (finish p t (s.onSegment g e, okResult)) :=
  linksKept_finish passed other (linksOk_onSegment h (linking (segments g).1)) (s.onSegment_event g e).1.interps t

theorem linksKept_enable : LinksKept (execEnable p t s) := by
  unfold execEnable
  split
  · exact linksKept_action h p t segments ‹_› Command.noConfusion Segment.linking_takeEnable
  · exact h.kept

theorem linksKept_disable : LinksKept (execDisable p t s) := by
  unfold execDisable
  split
  · exact linksKept_action h p t segments ‹_› Command.noConfusion Segment.linking_takeDisable
  · exact h.kept

theorem linksKept_recover : LinksKept (execRecover p t s) := by
  unfold execRecover
  split
  · exact linksKept_action h p t segments ‹_› Command.noConfusion Segment.linking_takeRecover
  · exact h.kept

end

/-! ### Frames and completions (R70, R177, R192, R194) -/

omit h in
/-- While no execution runs, none restarts. -/
theorem State.not_restartCancels_of_none (idle : (s.interpOf p).execution = none) : ¬ s.restartCancels (otherPort p) := by
  rintro ⟨e, -, -, running, -⟩
  rw [otherPort_otherPort, idle] at running
  cases running

/-- A frame judged RESTART sets the other port's wait in the same event (R72). -/
theorem linksOk_passedRestart (f : Frame) (idle : (s.interpOf p).execution = none) :
    linksOk ((s.setInterp p { s.interpOf p with execution := some { frame := f, progress := .passed .restart } }).setRestartWait
      p) := by
  generalize ({ s.interpOf p with execution := some { frame := f, progress := .passed .restart } } : InterpPort) = x
  refine linksOk_of_linked (fun r => ?_) h.2
  have standing := fun r => sameStanding_setInterp (s := s) (p := p) (x := x) r fun cancels =>
    absurd cancels (State.not_restartCancels_of_none p idle)
  refine PortCtl.Linked.sameWorld (s := s.setInterp p x) ?_
    (.of_eq (s := s.setInterp p x) (t := (s.setInterp p x).setRestartWait p) (fun _ => rfl) (fun _ => rfl) r)
  rw [State.setRestartWait, State.port_onPort]
  rcases port_cases p r with rfl | rfl
  · rw [if_neg (Ne.symm (otherPort_ne r))]
    exact (h.linked r).sameWorld ⟨standing r, (State.restartRuns_setInterp_self _).mp⟩
  · rw [if_pos rfl]
    refine PortCtl.Linked.sameStanding (s := s) ?_ (standing _) fun _ => ⟨rfl, rfl⟩
    exact (h.linked _).of_sameLink ⟨rfl, rfl, rfl, rfl, rfl, rfl⟩ (fun _ _ => rfl) (fun _ => rfl) (fun _ idle => idle)
      fun _ => ⟨rfl, rfl⟩

theorem linksOk_takeFrame (f : Frame) (idle : (s.interpOf p).execution = none) : linksOk (s.takeFrame p f) := by
  have taken : linksOk (s.onPort p fun q => { q with handedOver := none }) := by
    refine Unseen.linksOk ?_ h
    exact Unseen.setPort ⟨⟨rfl, rfl, rfl, rfl, rfl, rfl⟩, rfl, rfl, rfl, rfl, rfl⟩
  have none' : ((s.onPort p fun q => { q with handedOver := none }).interpOf p).execution = none := idle
  have live := State.not_restartCancels_of_none p none'
  unfold State.takeFrame
  simp only
  split
  · exact linksOk_writeResponse taken live _
  · rename_i c _
    have passed : c ≠ .restart → linksOk ((s.onPort p fun q => { q with handedOver := none }).setInterp p
        { (s.onPort p fun q => { q with handedOver := none }).interpOf p with
          execution := some { frame := f, progress := .passed c } }) := fun other => by
      refine linksOk_setInterp taken (fun runs => ?_) fun cancels => absurd cancels live
      obtain ⟨e, running, progress⟩ := (State.restartRuns_setInterp_other _).mp runs
      cases running
      rcases progress with progress | ⟨n, gen, a, progress⟩
      · exact absurd (Progress.passed.inj progress) other
      · cases progress
    split
    · exact linksOk_passedRestart taken p f none'
    all_goals exact passed Command.noConfusion

theorem linksKept_handOver : LinksKept (execHandOver p s) := by
  unfold execHandOver
  split
  · rename_i idle
    exact (linksOk_takeFrame h p _ idle).kept
  · exact h.kept

theorem linksOk_writeWaiting : linksOk (s.writeWaiting p) := by
  unfold State.writeWaiting
  split
  · rename_i waiting
    exact linksOk_writeResponse h (fun cancels => State.not_restartRuns_of_waiting waiting
      (State.restartRuns_of_cancels cancels)) _
  · exact h

omit h in
theorem PortCtl.takeOwnDone_linked {q : PortCtl} (link : q.Linked s p) (ok : PortOk q) : q.takeOwnDone.1.Linked s p := by
  unfold takeOwnDone
  split
  · refine judgeHeld_linked (link.of_unseen ?_) (PortCtl.ok_waits ok _ _ _ _ _)
    exact ⟨⟨rfl, rfl, rfl, rfl, rfl, rfl⟩, rfl, rfl, rfl, rfl, rfl⟩
  · exact link

omit h in
/-- RESTART has completed when its report is taken (R194). -/
theorem PortCtl.takeRestartDone_linked {q : PortCtl} (link : q.Linked s p) (ok : PortOk q) :
    q.takeRestartDone.1.Linked s p := by
  unfold takeRestartDone
  split
  · rename_i done
    refine judgeHeld_linked ?_ (PortCtl.ok_waits ok _ _ _ _ _)
    refine link.of_sameLink ⟨rfl, rfl, rfl, rfl, rfl, rfl⟩ (fun _ _ => rfl) (fun _ => rfl) (fun _ idle => idle) fun runs => ?_
    obtain ⟨-, running⟩ := link.waits runs
    rw [done] at running
    cases running
  · exact link

theorem linksKept_executionComplete (ports : portsOk s) (issuer : Port) : LinksKept (execExecutionComplete p issuer s) := by
  unfold execExecutionComplete
  split
  · have written := linksOk_writeWaiting h p
    have sound := (keeps_writeWaiting s p).ports ports p
    exact (linksOk_onPortMiss written (PortCtl.takeOwnDone_linked p (written.linked p) sound)).kept
  · exact (linksOk_onPortMiss h (PortCtl.takeRestartDone_linked p (h.linked p) (ports p))).kept

end

/-! ### The steps of RESTART (R72, R127, R192) -/

section

variable {s : State} {p : Port}

theorem State.restartProgress_cases {n : Nat} {gen : BitVec 8} {a : Byte} (at_ : s.restartProgress p = some (n, gen, a)) :
    ∃ e, (s.interpOf p).execution = some e ∧
      ((e.progress = .passed .restart ∧ n = 0) ∨ e.progress = .restarting n gen a) := by
  unfold State.restartProgress at at_
  split at at_
  · rename_i e running
    refine ⟨e, running, ?_⟩
    split at at_
    · rename_i passed
      cases at_
      exact .inl ⟨passed, rfl⟩
    · rename_i restarting
      cases at_
      exact .inr restarting
    · cases at_
  · cases at_

theorem State.restartRuns_of_progress {n : Nat} {gen : BitVec 8} {a : Byte}
    (at_ : s.restartProgress p = some (n, gen, a)) : s.restartRuns (otherPort p) := by
  obtain ⟨e, running, progress⟩ := State.restartProgress_cases at_
  refine ⟨e, by rw [otherPort_otherPort]; exact running, ?_⟩
  exact progress.imp (fun passed => passed.1) fun restarting => ⟨n, gen, a, restarting⟩

/-- Only between its first step and its second does RESTART leave a context cancelled whose segment has not taken it. -/
theorem State.not_restartCancels_of_progress {n : Nat} {gen : BitVec 8} {a : Byte}
    (at_ : s.restartProgress p = some (n, gen, a)) (other : n ≠ 1) : ¬ s.restartCancels (otherPort p) := by
  rintro ⟨e', gen', a', running', restarting'⟩
  rw [otherPort_otherPort] at running'
  obtain ⟨e, running, progress⟩ := State.restartProgress_cases at_
  obtain rfl := Option.some.inj (running.symm.trans running')
  rcases progress with ⟨passed, -⟩ | restarting
  · cases passed.symm.trans restarting'
  · exact other (Progress.restarting.inj (restarting.symm.trans restarting')).1

/-- The execution moves on to a step of RESTART. -/
theorem linksOk_atRestartStep {u : State} (h : linksOk u) (kept : u.interpOf p = s.interpOf p) {m : Nat} {gen' : BitVec 8}
    {a' : Byte} (at_ : s.restartProgress p = some (m, gen', a')) (n : Nat) (gen : BitVec 8) (a : Byte)
    (taken : m = 1 → u.stands (otherPort p) .away) : linksOk (u.atRestartStep p n gen a) := by
  have at_u : u.restartProgress p = some (m, gen', a') := by rw [State.restartProgress, kept]; exact at_
  refine linksOk_setInterp h (fun _ => State.restartRuns_of_progress at_u) fun cancels => .inr (taken ?_)
  by_contra other
  exact State.not_restartCancels_of_progress at_u other cancels

/-- Step 1: the other port's context is cancelled while its ownership stands, until step 2 (R72). -/
theorem linksOk_restartStep1 (h : linksOk s) (ports : portsOk s) {gen : BitVec 8} {a : Byte}
    (at_ : s.restartProgress p = some (0, gen, a)) : linksOk ((s.restartStep1 p).atRestartStep p 1 gen a) := by
  obtain ⟨e, running, -⟩ := State.restartProgress_cases at_
  rw [State.atRestartStep_eq (u := s.restartStep1 p) running rfl]
  generalize stepped : ({ s.interpOf p with execution := some { e with progress := .restarting 1 gen a } } : InterpPort) = x
  have cancels : (s.setInterp p x).restartCancels (otherPort p) := by
    refine ⟨{ e with progress := .restarting 1 gen a }, gen, a, ?_, rfl⟩
    rw [otherPort_otherPort, State.interpOf_setInterp_same, ← stepped]
  have links : linksOk (s.setInterp p x) :=
    linksOk_setInterp h (fun _ => State.restartRuns_of_progress at_) fun _ => .inl cancels
  exact linksOk_setPort links (PortCtl.takeCancellation_linked (links.linked (otherPort p)) (ports _) cancels)

/-- Step 2: every segment has taken the restart, so no port stands with one (R127). -/
theorem linksOk_restartStep2 (h : linksOk s) (segments : segmentsOk s) :
    linksOk s.restartStep2 ∧ (∀ r, s.restartStep2.interpOf r = s.interpOf r) ∧ ∀ r, s.restartStep2.stands r .away := by
  obtain ⟨t, stepped, past⟩ := restartedPast_step2 segments
  have links := State.restartStep2_induct (P := fun t => linksOk t ∧ segmentsOk t) (fun t g both => by
    obtain ⟨links, segments⟩ := both
    exact ⟨linksOk_onSegment links (Segment.linking_takeRestart (segments g).1).1,
      (keeps_onSegment t g Segment.takeRestart_ok (by rw [Segment.takeRestart_config])).segments segments⟩) ⟨h, segments⟩
  refine ⟨links.1, fun r => by rw [stepped, past.interpOf_eq], fun r g => ?_⟩
  rw [stepped, past.taken g (List.mem_finRange g)]
  exact (Segment.linking_takeRestart (segments g).1).2 r

/-- Step 5: RESTART is complete, and the other port is told (R194). -/
theorem linksOk_restartStep5 (h : linksOk s) (live : ¬ s.restartCancels (otherPort p)) (gen : BitVec 8) (a : Byte) :
    linksOk (s.restartStep5 p gen a) := by
  have emptied : linksOk (s.setInterp (otherPort p)
      { s.interpOf (otherPort p) with buffer := responseBytes .none [] }) := by
    refine linksOk_setInterp h ?_ ?_
    · rintro ⟨e, running, progress⟩
      rw [otherPort_otherPort, State.interpOf_setInterp_same] at running
      exact ⟨e, by rw [otherPort_otherPort]; exact running, progress⟩
    · rintro ⟨e, gen, a, running, progress⟩
      refine .inl ⟨e, gen, a, ?_, progress⟩
      rw [otherPort_otherPort] at running ⊢
      rw [State.interpOf_setInterp_same]
      exact running
  have written := linksOk_writeResponse (p := p) emptied (fun cancels => live ?_) (.done .ok [gen, a])
  · refine linksOk_setPort written ((written.linked (otherPort p)).of_sameLink ⟨rfl, rfl, rfl, rfl, rfl, rfl⟩
      (fun _ _ => rfl) (fun _ => rfl) (fun _ idle => idle) ?_)
    rintro ⟨e, running, -⟩
    rw [otherPort_otherPort] at running
    simp [State.writeResponse] at running
  · rw [← otherPort_otherPort p] at cancels
    rw [otherPort_otherPort (otherPort p)] at cancels
    simpa only [State.restartCancels, otherPort_otherPort, State.interpOf_setInterp, if_neg (Ne.symm (otherPort_ne p))]
      using cancels

theorem linksOk_restartStep (h : linksOk s) (ports : portsOk s) (segments : segmentsOk s) (straps : BitVec 2) :
    linksOk (s.restartStep p straps) := by
  unfold State.restartStep
  split
  · exact h
  · exact linksOk_restartStep1 h ports ‹_›
  · obtain ⟨links, interps, away⟩ := linksOk_restartStep2 h segments
    exact linksOk_atRestartStep links (interps p) ‹_› 2 _ _ fun _ => away _
  · have restarted : Unseen s (s.restartTable straps) := .of_ports rfl rfl rfl
    exact linksOk_atRestartStep (restarted.linksOk h) rfl ‹_› 3 _ _ fun one => absurd one (by decide)
  · have emptied : Unseen s s.emptyNotices := .of_ports rfl rfl rfl
    exact linksOk_atRestartStep (emptied.linksOk h) rfl ‹_› 4 _ _ fun one => absurd one (by decide)
  · rename_i _ _ _ later _ _ progress
    exact linksOk_restartStep5 h (State.not_restartCancels_of_progress progress (by assumption)) _ _

theorem linksKept_restart (h : linksOk s) (ports : portsOk s) (segments : segmentsOk s) (straps : BitVec 2) (whole : Bool) :
    LinksKept (execRestart p straps whole s) := by
  unfold execRestart
  cases whole with
  | false => exact (linksOk_restartStep h ports segments straps).kept
  | true =>
    have all := State.restartWhole_induct (P := fun t => linksOk t ∧ portsOk t ∧ segmentsOk t) (p := p) (straps := straps)
      (fun t sound => by
        obtain ⟨links, ports, segments⟩ := sound
        have keeps := keeps_restartStep t p straps
        exact ⟨linksOk_restartStep links ports segments straps, keeps.ports ports, keeps.segments segments⟩)
      ⟨h, ports, segments⟩
    exact all.1.kept

end

/-! ### Every step -/

theorem linksKept_deviceReset (s : State) (straps : BitVec 2) : LinksKept (execDeviceReset straps s) := by
  refine ⟨_, rfl, Unseen.linksOk ?_ (linksOk_resetWith straps)⟩
  exact Unseen.of_ports rfl rfl rfl

theorem linksOk_tick {s : State} (h : linksOk s) : linksOk s.tick :=
  linksOk_of_segments h (fun _ => rfl) (fun _ => rfl) fun g => by
    rw [State.seg_tick]
    exact ⟨rfl, rfl, rfl, rfl⟩

theorem linksKept_exec (c : Instr) {s : State} (h : linksOk s) (ports : portsOk s) (segments : segmentsOk s) :
    LinksKept (exec c s) := by
  cases c with
  | deviceReset straps => exact linksKept_deviceReset s straps
  | upstreamStart p => exact linksKept_onPort h (PortCtl.takeStartCondition_linked (h.linked p) (ports p))
  | upstreamStop p => exact linksKept_onPort h (PortCtl.takeStop_linked (h.linked p) (ports p))
  | upstreamRestart p => exact linksKept_onPort h (PortCtl.takeStartCondition_linked (h.linked p) (ports p))
  | addressByte p a d => exact (linksOk_onPortMiss h (PortCtl.takeFirstByte_linked (h.linked p) (ports p) _ _)).kept
  | prefixWrite p b => exact (linksOk_onPortMiss h (PortCtl.takeFirstByte_linked (h.linked p) (ports p) _ _)).kept
  | prefixRead p b => exact (linksOk_onPortMiss h (PortCtl.takeFirstByte_linked (h.linked p) (ports p) _ _)).kept
  | lowByte p b => exact (linksOk_onPortMiss h (PortCtl.takeLowByte_linked (h.linked p) (ports p) _ _)).kept
  | lookup p => exact linksKept_lookup h p
  | prefixTest p => exact linksKept_prefixTest h p
  | lookupOutcome p => exact linksKept_lookupOutcome h ports p
  | prefixOutcome p => exact linksKept_prefixOutcome h ports p
  | unbind p => exact linksKept_unbind h p
  | acceptanceReport p => exact linksKept_acceptanceReport h p
  | refusalReport p => exact linksKept_refusalReport h p
  | leaseExpiry k => exact linksKept_leaseExpiry h k
  | idleExpiry => exact linksKept_idleExpiry h
  | holdExpiry p => exact linksKept_holdExpiry h ports p
  | commandByte p b => exact linksKept_onPort h (PortCtl.takeCommandByte_linked (h.linked p) b)
  | responseByte p => exact linksKept_onPort h (PortCtl.takeResponseByte_linked (h.linked p) _)
  | writeDataByte p b => exact linksKept_onPort h (PortCtl.takeWriteByte_linked (h.linked p) (ports p) _ b)
  | readDataByte p => exact linksKept_onPort h (PortCtl.takeReadClock_linked (h.linked p) _)
  | hostAcknowledge p ack => exact linksKept_onPort h (PortCtl.takeHostAck_linked (h.linked p) (ports p) ack)
  | absorbByte p d => exact linksKept_onPort h (PortCtl.takeAbsorbByte_linked (h.linked p) d)
  | endingByte p => exact linksKept_onPort h (PortCtl.takeEndingByte_linked (h.linked p))
  | grantTaken p g => exact linksKept_grantTaken h ports p g
  | refusalTaken p g => exact linksKept_refusalTaken h ports p g
  | addressAck p g => exact linksKept_addressAck h ports p g
  | addressNack p g => exact linksKept_addressNack h ports p g
  | writeByteResult p g => exact linksKept_writeByteResult h ports p g
  | readByteResult p g => exact linksKept_readByteResult h ports p g
  | ackBitDone p g => exact linksKept_ackBitDone h ports p g
  | lost p g => exact linksKept_lost h ports p g
  | fault p g => exact linksKept_fault h ports p g
  | cancelled p g => exact linksKept_cancelled h ports p g
  | segmentRequest p => exact linksKept_segmentRequest h segments p
  | withdrawal p => exact linksKept_withdrawal h segments p
  | release p => exact linksKept_release h segments p
  | ask p => exact linksKept_ask h p ports
  | startCondition g => exact linksKept_startCondition h g
  | addressEnd g acks => exact linksKept_onSegment h (Segment.linking_addressEnd (segments g).1 acks)
  | writeByteEnd g ack => exact linksKept_onSegment h (Segment.linking_writeByteEnd (segments g).1 ack)
  | readByteEnd g b => exact linksKept_onSegment h (Segment.linking_readByteEnd (segments g).1 b)
  | ackBitEnd g => exact linksKept_onSegment h (Segment.linking_ackBitEnd (segments g).1)
  | stopEnd g => exact linksKept_onSegment h (Segment.linking_stopEnd (segments g).1 _)
  | arbitrationLossAddress g => exact linksKept_onSegment h (Segment.linking_arbitrationLossAddress (segments g).1 _)
  | arbitrationLoss g => exact linksKept_onSegment h (Segment.linking_arbitrationLoss (segments g).1 _)
  | clockLowExpiry g => exact linksKept_clockLowExpiry h segments g
  | clearCheck g dscl dsda => exact linksKept_onSegment h (Segment.linking_clearCheck (segments g).1 g _ dscl dsda)
  | handOver p => exact linksKept_handOver h p
  | executionComplete p issuer => exact linksKept_executionComplete h p ports issuer
  | stage p t => exact linksKept_stage h p t
  | unstage p t => exact linksKept_unstage h p t
  | mark p t => exact linksKept_mark h p t
  | unmark p t => exact linksKept_unmark h p t
  | commit p t => exact linksKept_commit h p t
  | abandon p t => exact linksKept_abandon h p t
  | renew p t => exact linksKept_renew h p t
  | revive p t => exact linksKept_revive h p t
  | readRecord p t => exact linksKept_readRecord h p t
  | probe p t => exact linksKept_probe h p t
  | readStatus p t => exact linksKept_readStatus h p t
  | readSegment p t => exact linksKept_readSegment h p t
  | readNotices p t => exact linksKept_readNotices h p t
  | segmentConfig p t => exact linksKept_segmentConfig h p t
  | enable p t => exact linksKept_enable h p t segments
  | disable p t => exact linksKept_disable h p t segments
  | recover p t => exact linksKept_recover h p t segments
  | portConfig p t => exact linksKept_portConfig h p t
  | globalConfig p t => exact linksKept_globalConfig h p t
  | clearNotices p t => exact linksKept_clearNotices h p t
  | restart p straps whole => exact linksKept_restart h ports segments straps whole

theorem linksOk_step {s t : State} (ports : portsOk s) (segments : segmentsOk s) (h : linksOk s) (stepped : step s = .next t) :
    linksOk t := by
  cases queue : s.pending with
  | nil =>
    obtain rfl : s.tick = t := by simpa [step_of_empty queue] using stepped
    exact linksOk_tick h
  | cons c rest =>
    have dequeued := keeps_pending s rest
    have links : linksOk { s with pending := rest } := Unseen.linksOk (s := s) (.of_ports rfl rfl rfl) h
    obtain ⟨u, answers, kept⟩ := linksKept_exec c links (dequeued.ports ports) (dequeued.segments segments)
    obtain rfl : u = t := by simpa [step_of_front queue, answers] using stepped
    exact kept

/-! ### What the links bound (R100, R107) -/

/-- A port is where it stands: with one segment, as its owner or as one entry of its queue. -/
theorem standing_unique {s : State} (h : linksOk s) {p : Port} {g k : SegIx}
    (atG : (s.seg g).owner = some p ∨ p ∈ (s.seg g).queue) (atK : (s.seg k).owner = some p ∨ p ∈ (s.seg k).queue) : g = k := by
  obtain ⟨w, stands⟩ := (h.linked p).stands
  have place : ∀ {j}, (s.seg j).owner = some p ∨ p ∈ (s.seg j).queue → w = .owner j ∨ w = .entry j := fun here =>
    here.imp (State.standing_of_owner stands) (State.standing_of_queued stands)
  rcases place atG with rfl | rfl <;> rcases place atK with same | same <;> cases same <;> rfl

theorem queue_nodup {s : State} (h : linksOk s) (g : SegIx) : (s.seg g).queue.Nodup :=
  List.nodup_iff_count_le_one.mpr fun p => Segment.count_le_one ((h.linked p).single g)

theorem port_nodup_length {l : List Port} (distinct : l.Nodup) : l.length ≤ 2 := by
  have all : l ⊆ [Port.u0, .u1] := fun p _ => by cases p <;> simp
  exact (List.subperm_of_subset distinct all).length_le

/-- Settles O58: the link of each port, generalised to any controller in its place, is kept by what the port does, by what each
event at a segment is for it, and by RESTART; where each port stands bounds the queues. -/
theorem everyStepKeepsTheSegmentLinks : Obligations.EveryStepKeepsTheSegmentLinks :=
  ⟨fun _ _ ports segments links stepped => linksOk_step ports segments links stepped, fun _ links =>
    ⟨fun g => ⟨port_nodup_length (queue_nodup links g), queue_nodup links g, links.2 g⟩,
      fun p g owner => Segment.not_queued_of_owner ((links.linked p).single g) owner,
      fun _ _ _ atG atK => standing_unique links atG atK⟩⟩

end Sys2Proof.Machine
end
